-- ==== Sys2Proof/Word.lean ====
section
/-! DEFINITION. The two widths of data: a byte of memory and a 16-bit machine word (00_scope R7, 10_state R30). -/

namespace Sys2Proof

/-- A byte: a memory cell, an 8-bit half-register, an opcode byte or a BYTE operand. -/
abbrev Byte := BitVec 8

/-- A 16-bit word: a register, a WORD or ADDRESS operand, an I/O register. -/
abbrev Word := BitVec 16

/-- The one-byte index that names a register in an instruction (10_state R33). Any byte can stand in an
instruction; which ones name an operand is decided by `isReg16` and `isReg8` (R34). -/
abbrev RegIdx := BitVec 8

end Sys2Proof
end

