-- ==== Sys2Proof/Machine/Fields.lean ====
section
/-! DEFINITION. Byte order, bit fields, sign extension and the classes of register indices. -/

namespace Sys2Proof

/-- `hi ++ lo` of 00_scope R7: the word whose high byte is `hi`. The machine is big-endian everywhere (20_memory R88). -/
def joinBytes (hi lo : Byte) : Word := hi ++ lo

/-- `v[15:8]`. -/
def hiByte (v : Word) : Byte := v.extractLsb' 8 8

/-- `v[7:0]`. -/
def loByte (v : Word) : Byte := v.extractLsb' 0 8

/-- `P <- v ++ P[7:0]`: the write of a high half-register (10_state R39). -/
def withHiByte (p : Word) (v : Byte) : Word := joinBytes v (loByte p)

/-- `P <- P[15:8] ++ v`: the write of a low half-register (10_state R39). -/
def withLoByte (p : Word) (v : Byte) : Word := joinBytes (hiByte p) v

/-- `sext_8(v)`: the byte read as two's complement (00_scope R7). -/
def sext8 (v : Byte) : Int := if v.toNat < 128 then (v.toNat : Int) else (v.toNat : Int) - 256

/-- `x mod 65536` for an integer, as a word (00_scope R7). -/
def wordOfInt (x : Int) : Word := BitVec.ofInt 16 x

/-- The word with bit `n` replaced by `b`, every other bit kept (10_state R43). -/
def setBit (w : Word) (n : Nat) (b : Bool) : Word :=
  if b then w ||| BitVec.twoPow 16 n else w &&& ~~~ BitVec.twoPow 16 n

/-- `IsReg16(i)`: A, B, C, D and SP (10_state R34). -/
def isReg16 (i : RegIdx) : Bool := decide (i.toNat ≤ 4)

/-- `IsReg8(i)`: AH, AL, BH, BL, CH, CL, DH and DL (10_state R34). -/
def isReg8 (i : RegIdx) : Bool := decide (9 ≤ i.toNat) && decide (i.toNat ≤ 16)

end Sys2Proof
end

