-- ==== Sys2Proof/Config.lean ====
section
/-! DEFINITION. The implementation parameters of 00_scope R6 and the constants the architecture fixes. -/

namespace Sys2Proof

/-- A permission: of a memory region (20_memory R82) or of an I/O register as OUT sees it (10_state R51). -/
inductive Perm where
  | rw
  | ro
  deriving DecidableEq, Repr

/-- One memory region `[start, stop]`, both ends inside it, with its permission (20_memory R82). -/
structure Region where
  start : Nat
  stop  : Nat
  perm  : Perm
  deriving DecidableEq, Repr

/-- One plain I/O register of an out-of-scope peripheral (60_exceptions R497, 70_reset_and_hazards R563). -/
structure ExtIoReg where
  addr       : Word
  perm       : Perm
  resetValue : Word
  deriving DecidableEq, Repr

/-- The parameters a model takes (00_scope R6). They never change during a run (R12, 70_reset_and_hazards R551). -/
structure Config where
  /-- `MEM_SIZE`, the number of bytes of memory. -/
  memSize      : Nat
  /-- `REGIONS`, the memory regions. -/
  regions      : List Region
  /-- `IO_TMRPRELOAD`, the I/O address of the timer's preload register. -/
  ioTmrPreload : Word
  /-- `IO_TMRCOUNTER`, the I/O address of the timer's counter register. -/
  ioTmrCounter : Word
  /-- `EXT_IO`, the further plain I/O registers. -/
  extIo        : List ExtIoReg
  deriving DecidableEq, Repr

/-- The default parameters of 00_scope R6. -/
def Config.standard : Config :=
  { memSize := 1024, regions := [], ioTmrPreload := 3, ioTmrCounter := 4, extIo := [] }

/-- `IRQ_VECTOR`, the interrupt entry point (00_scope R6, 60_exceptions R484). -/
def irqVector : Word := 3

/-- `SYSCALL_VECTOR`, the system-call entry point (00_scope R6, 60_exceptions R484). -/
def syscallVector : Word := 6

/-- `EXC_VECTOR`, the exception entry point (00_scope R6, 60_exceptions R484). -/
def excVector : Word := 9

/-- I/O address of the IRQMASK register (60_exceptions R497). -/
def ioIrqMask : Word := 0

/-- I/O address of the IRQSTATUS register (60_exceptions R497). -/
def ioIrqStatus : Word := 1

/-- I/O address of the IRQEOI register (60_exceptions R497). -/
def ioIrqEoi : Word := 2

/-- `TIMER_IRQ_LINE`, the interrupt line the timer drives (00_scope R6, 60_exceptions R504). -/
def timerIrqLine : Nat := 1

end Sys2Proof
end

