-- ==== Sys2Proof/Syntax.lean ====
section
/-! DEFINITION. The abstract syntax: the operand types of 30_encoding R122 and one constructor of `Instr` for each of the 142
rows of the opcode map (30_encoding R131, spec/opcode_table.json). A constructor is named by its mnemonic and its format (R123). -/

namespace Sys2Proof

/-- The six operand type descriptors (30_encoding R122). -/
inductive OperandType where
  | r16
  | r8
  | byte
  | word
  | addr
  | regAddr
  deriving DecidableEq, Repr

/-- A REGADDRESS operand as it is encoded: a signed offset byte, then the index of the base register (30_encoding R122, R128). -/
structure RegAddr where
  offset : BitVec 8
  base   : RegIdx
  deriving DecidableEq, Repr

/-- An operand with its type. Register operands keep the raw index byte: an index outside the class its type asks for is a legal byte
to encode, and executing it raises IllegalInstruction (30_encoding R126, R127, R133). -/
inductive Operand where
  | r16 (i : RegIdx)
  | r8 (i : RegIdx)
  | byte (v : Byte)
  | word (v : Word)
  | addr (a : Word)
  | regAddr (m : RegAddr)
  deriving DecidableEq, Repr

/-- The instructions, one constructor per row of the opcode map (30_encoding R131). -/
inductive Instr where
  /-- `HLT`: opcode 0, format N (46_system R381). -/
  | hlt
  /-- `MOV reg16, reg16`: opcode 1, format R16_R16 (41_data_movement R201). -/
  | movR16R16 (d : RegIdx) (r : RegIdx)
  /-- `MOV reg16, [addr]`: opcode 2, format R16_AD (41_data_movement R202). -/
  | movR16Ad (d : RegIdx) (a : Word)
  /-- `MOV reg16, [reg16±off]`: opcode 3, format R16_RA (41_data_movement R203). -/
  | movR16Ra (d : RegIdx) (m : RegAddr)
  /-- `MOV [addr], reg16`: opcode 4, format AD_R16 (41_data_movement R204). -/
  | movAdR16 (a : Word) (r : RegIdx)
  /-- `MOV [reg16±off], reg16`: opcode 5, format RA_R16 (41_data_movement R205). -/
  | movRaR16 (m : RegAddr) (r : RegIdx)
  /-- `MOV reg16, word`: opcode 6, format R16_W (41_data_movement R206). -/
  | movR16W (d : RegIdx) (v : Word)
  /-- `MOV [addr], word`: opcode 7, format AD_W (41_data_movement R207). -/
  | movAdW (a : Word) (v : Word)
  /-- `MOV [reg16±off], word`: opcode 8, format RA_W (41_data_movement R208). -/
  | movRaW (m : RegAddr) (v : Word)
  /-- `MOVB reg8, reg8`: opcode 9, format R8_R8 (41_data_movement R209). -/
  | movbR8R8 (d : RegIdx) (r : RegIdx)
  /-- `MOVB reg8, [addr]`: opcode 10, format R8_AD (41_data_movement R210). -/
  | movbR8Ad (d : RegIdx) (a : Word)
  /-- `MOVB reg8, [reg16±off]`: opcode 11, format R8_RA (41_data_movement R211). -/
  | movbR8Ra (d : RegIdx) (m : RegAddr)
  /-- `MOVB [addr], reg8`: opcode 12, format AD_R8 (41_data_movement R212). -/
  | movbAdR8 (a : Word) (r : RegIdx)
  /-- `MOVB [reg16±off], reg8`: opcode 13, format RA_R8 (41_data_movement R213). -/
  | movbRaR8 (m : RegAddr) (r : RegIdx)
  /-- `MOVB reg8, byte`: opcode 14, format R8_B (41_data_movement R214). -/
  | movbR8B (d : RegIdx) (v : Byte)
  /-- `MOVB [addr], byte`: opcode 15, format AD_B (41_data_movement R215). -/
  | movbAdB (a : Word) (v : Byte)
  /-- `MOVB [reg16±off], byte`: opcode 16, format RA_B (41_data_movement R216). -/
  | movbRaB (m : RegAddr) (v : Byte)
  /-- `ADD reg16, reg16`: opcode 17, format R16_R16 (42_arithmetic R232). -/
  | addR16R16 (d : RegIdx) (r : RegIdx)
  /-- `ADD reg16, [reg16±off]`: opcode 18, format R16_RA (42_arithmetic R233). -/
  | addR16Ra (d : RegIdx) (m : RegAddr)
  /-- `ADD reg16, [addr]`: opcode 19, format R16_AD (42_arithmetic R234). -/
  | addR16Ad (d : RegIdx) (a : Word)
  /-- `ADD reg16, word`: opcode 20, format R16_W (42_arithmetic R235). -/
  | addR16W (d : RegIdx) (v : Word)
  /-- `ADDB reg8, reg8`: opcode 21, format R8_R8 (42_arithmetic R236). -/
  | addbR8R8 (d : RegIdx) (r : RegIdx)
  /-- `ADDB reg8, [reg16±off]`: opcode 22, format R8_RA (42_arithmetic R237). -/
  | addbR8Ra (d : RegIdx) (m : RegAddr)
  /-- `ADDB reg8, [addr]`: opcode 23, format R8_AD (42_arithmetic R238). -/
  | addbR8Ad (d : RegIdx) (a : Word)
  /-- `ADDB reg8, byte`: opcode 24, format R8_B (42_arithmetic R239). -/
  | addbR8B (d : RegIdx) (v : Byte)
  /-- `SUB reg16, reg16`: opcode 25, format R16_R16 (42_arithmetic R240). -/
  | subR16R16 (d : RegIdx) (r : RegIdx)
  /-- `SUB reg16, [reg16±off]`: opcode 26, format R16_RA (42_arithmetic R241). -/
  | subR16Ra (d : RegIdx) (m : RegAddr)
  /-- `SUB reg16, [addr]`: opcode 27, format R16_AD (42_arithmetic R242). -/
  | subR16Ad (d : RegIdx) (a : Word)
  /-- `SUB reg16, word`: opcode 28, format R16_W (42_arithmetic R243). -/
  | subR16W (d : RegIdx) (v : Word)
  /-- `SUBB reg8, reg8`: opcode 29, format R8_R8 (42_arithmetic R244). -/
  | subbR8R8 (d : RegIdx) (r : RegIdx)
  /-- `SUBB reg8, [reg16±off]`: opcode 30, format R8_RA (42_arithmetic R245). -/
  | subbR8Ra (d : RegIdx) (m : RegAddr)
  /-- `SUBB reg8, [addr]`: opcode 31, format R8_AD (42_arithmetic R246). -/
  | subbR8Ad (d : RegIdx) (a : Word)
  /-- `SUBB reg8, byte`: opcode 32, format R8_B (42_arithmetic R247). -/
  | subbR8B (d : RegIdx) (v : Byte)
  /-- `INC reg16`: opcode 33, format R16 (42_arithmetic R248). -/
  | incR16 (r : RegIdx)
  /-- `INCB reg8`: opcode 34, format R8 (42_arithmetic R249). -/
  | incbR8 (r : RegIdx)
  /-- `DEC reg16`: opcode 35, format R16 (42_arithmetic R250). -/
  | decR16 (r : RegIdx)
  /-- `DECB reg8`: opcode 36, format R8 (42_arithmetic R251). -/
  | decbR8 (r : RegIdx)
  /-- `CMP reg16, reg16`: opcode 37, format R16_R16 (42_arithmetic R252). -/
  | cmpR16R16 (d : RegIdx) (r : RegIdx)
  /-- `CMP reg16, [reg16±off]`: opcode 38, format R16_RA (42_arithmetic R253). -/
  | cmpR16Ra (d : RegIdx) (m : RegAddr)
  /-- `CMP reg16, [addr]`: opcode 39, format R16_AD (42_arithmetic R254). -/
  | cmpR16Ad (d : RegIdx) (a : Word)
  /-- `CMP reg16, word`: opcode 40, format R16_W (42_arithmetic R255). -/
  | cmpR16W (d : RegIdx) (v : Word)
  /-- `CMPB reg8, reg8`: opcode 41, format R8_R8 (42_arithmetic R256). -/
  | cmpbR8R8 (d : RegIdx) (r : RegIdx)
  /-- `CMPB reg8, [reg16±off]`: opcode 42, format R8_RA (42_arithmetic R257). -/
  | cmpbR8Ra (d : RegIdx) (m : RegAddr)
  /-- `CMPB reg8, [addr]`: opcode 43, format R8_AD (42_arithmetic R258). -/
  | cmpbR8Ad (d : RegIdx) (a : Word)
  /-- `CMPB reg8, byte`: opcode 44, format R8_B (42_arithmetic R259). -/
  | cmpbR8B (d : RegIdx) (v : Byte)
  /-- `JMP [reg16±off]`: opcode 45, format RA (44_control_transfer R342). -/
  | jmpRa (m : RegAddr)
  /-- `JMP word`: opcode 46, format W (44_control_transfer R343). -/
  | jmpW (v : Word)
  /-- `JC [reg16±off]`: opcode 47, format RA (44_control_transfer R344). -/
  | jcRa (m : RegAddr)
  /-- `JC word`: opcode 48, format W (44_control_transfer R345). -/
  | jcW (v : Word)
  /-- `JNC [reg16±off]`: opcode 49, format RA (44_control_transfer R346). -/
  | jncRa (m : RegAddr)
  /-- `JNC word`: opcode 50, format W (44_control_transfer R347). -/
  | jncW (v : Word)
  /-- `JZ [reg16±off]`: opcode 51, format RA (44_control_transfer R348). -/
  | jzRa (m : RegAddr)
  /-- `JZ word`: opcode 52, format W (44_control_transfer R349). -/
  | jzW (v : Word)
  /-- `JNZ [reg16±off]`: opcode 53, format RA (44_control_transfer R350). -/
  | jnzRa (m : RegAddr)
  /-- `JNZ word`: opcode 54, format W (44_control_transfer R351). -/
  | jnzW (v : Word)
  /-- `JA [reg16±off]`: opcode 55, format RA (44_control_transfer R352). -/
  | jaRa (m : RegAddr)
  /-- `JA word`: opcode 56, format W (44_control_transfer R353). -/
  | jaW (v : Word)
  /-- `JNA [reg16±off]`: opcode 57, format RA (44_control_transfer R354). -/
  | jnaRa (m : RegAddr)
  /-- `JNA word`: opcode 58, format W (44_control_transfer R355). -/
  | jnaW (v : Word)
  /-- `PUSH reg16`: opcode 59, format R16 (45_stack R366). -/
  | pushR16 (r : RegIdx)
  /-- `PUSH [reg16±off]`: opcode 60, format RA (45_stack R367). -/
  | pushRa (m : RegAddr)
  /-- `PUSH [addr]`: opcode 61, format AD (45_stack R368). -/
  | pushAd (a : Word)
  /-- `PUSH word`: opcode 62, format W (45_stack R369). -/
  | pushW (v : Word)
  /-- `PUSHB reg8`: opcode 63, format R8 (45_stack R370). -/
  | pushbR8 (r : RegIdx)
  /-- `PUSHB [reg16±off]`: opcode 64, format RA (45_stack R371). -/
  | pushbRa (m : RegAddr)
  /-- `PUSHB [addr]`: opcode 65, format AD (45_stack R372). -/
  | pushbAd (a : Word)
  /-- `PUSHB byte`: opcode 66, format B (45_stack R373). -/
  | pushbB (v : Byte)
  /-- `POP reg16`: opcode 67, format R16 (45_stack R374). -/
  | popR16 (r : RegIdx)
  /-- `POPB reg8`: opcode 68, format R8 (45_stack R375). -/
  | popbR8 (r : RegIdx)
  /-- `CALL [reg16±off]`: opcode 69, format RA (44_control_transfer R356). -/
  | callRa (m : RegAddr)
  /-- `CALL word`: opcode 70, format W (44_control_transfer R357). -/
  | callW (v : Word)
  /-- `RET`: opcode 71, format N (44_control_transfer R358). -/
  | ret
  /-- `MUL reg16`: opcode 72, format R16 (42_arithmetic R260). -/
  | mulR16 (r : RegIdx)
  /-- `MUL [reg16±off]`: opcode 73, format RA (42_arithmetic R261). -/
  | mulRa (m : RegAddr)
  /-- `MUL [addr]`: opcode 74, format AD (42_arithmetic R262). -/
  | mulAd (a : Word)
  /-- `MUL word`: opcode 75, format W (42_arithmetic R263). -/
  | mulW (v : Word)
  /-- `MULB reg8`: opcode 76, format R8 (42_arithmetic R264). -/
  | mulbR8 (r : RegIdx)
  /-- `MULB [reg16±off]`: opcode 77, format RA (42_arithmetic R265). -/
  | mulbRa (m : RegAddr)
  /-- `MULB [addr]`: opcode 78, format AD (42_arithmetic R266). -/
  | mulbAd (a : Word)
  /-- `MULB byte`: opcode 79, format B (42_arithmetic R267). -/
  | mulbB (v : Byte)
  /-- `DIV reg16`: opcode 80, format R16 (42_arithmetic R268). -/
  | divR16 (r : RegIdx)
  /-- `DIV [reg16±off]`: opcode 81, format RA (42_arithmetic R269). -/
  | divRa (m : RegAddr)
  /-- `DIV [addr]`: opcode 82, format AD (42_arithmetic R270). -/
  | divAd (a : Word)
  /-- `DIV word`: opcode 83, format W (42_arithmetic R271). -/
  | divW (v : Word)
  /-- `DIVB reg8`: opcode 84, format R8 (42_arithmetic R272). -/
  | divbR8 (r : RegIdx)
  /-- `DIVB [reg16±off]`: opcode 85, format RA (42_arithmetic R273). -/
  | divbRa (m : RegAddr)
  /-- `DIVB [addr]`: opcode 86, format AD (42_arithmetic R274). -/
  | divbAd (a : Word)
  /-- `DIVB byte`: opcode 87, format B (42_arithmetic R275). -/
  | divbB (v : Byte)
  /-- `AND reg16, reg16`: opcode 88, format R16_R16 (43_logic_shift R291). -/
  | andR16R16 (d : RegIdx) (r : RegIdx)
  /-- `AND reg16, [reg16±off]`: opcode 89, format R16_RA (43_logic_shift R292). -/
  | andR16Ra (d : RegIdx) (m : RegAddr)
  /-- `AND reg16, [addr]`: opcode 90, format R16_AD (43_logic_shift R293). -/
  | andR16Ad (d : RegIdx) (a : Word)
  /-- `AND reg16, word`: opcode 91, format R16_W (43_logic_shift R294). -/
  | andR16W (d : RegIdx) (v : Word)
  /-- `ANDB reg8, reg8`: opcode 92, format R8_R8 (43_logic_shift R295). -/
  | andbR8R8 (d : RegIdx) (r : RegIdx)
  /-- `ANDB reg8, [reg16±off]`: opcode 93, format R8_RA (43_logic_shift R296). -/
  | andbR8Ra (d : RegIdx) (m : RegAddr)
  /-- `ANDB reg8, [addr]`: opcode 94, format R8_AD (43_logic_shift R297). -/
  | andbR8Ad (d : RegIdx) (a : Word)
  /-- `ANDB reg8, byte`: opcode 95, format R8_B (43_logic_shift R298). -/
  | andbR8B (d : RegIdx) (v : Byte)
  /-- `OR reg16, reg16`: opcode 96, format R16_R16 (43_logic_shift R299). -/
  | orR16R16 (d : RegIdx) (r : RegIdx)
  /-- `OR reg16, [reg16±off]`: opcode 97, format R16_RA (43_logic_shift R300). -/
  | orR16Ra (d : RegIdx) (m : RegAddr)
  /-- `OR reg16, [addr]`: opcode 98, format R16_AD (43_logic_shift R301). -/
  | orR16Ad (d : RegIdx) (a : Word)
  /-- `OR reg16, word`: opcode 99, format R16_W (43_logic_shift R302). -/
  | orR16W (d : RegIdx) (v : Word)
  /-- `ORB reg8, reg8`: opcode 100, format R8_R8 (43_logic_shift R303). -/
  | orbR8R8 (d : RegIdx) (r : RegIdx)
  /-- `ORB reg8, [reg16±off]`: opcode 101, format R8_RA (43_logic_shift R304). -/
  | orbR8Ra (d : RegIdx) (m : RegAddr)
  /-- `ORB reg8, [addr]`: opcode 102, format R8_AD (43_logic_shift R305). -/
  | orbR8Ad (d : RegIdx) (a : Word)
  /-- `ORB reg8, byte`: opcode 103, format R8_B (43_logic_shift R306). -/
  | orbR8B (d : RegIdx) (v : Byte)
  /-- `XOR reg16, reg16`: opcode 104, format R16_R16 (43_logic_shift R307). -/
  | xorR16R16 (d : RegIdx) (r : RegIdx)
  /-- `XOR reg16, [reg16±off]`: opcode 105, format R16_RA (43_logic_shift R308). -/
  | xorR16Ra (d : RegIdx) (m : RegAddr)
  /-- `XOR reg16, [addr]`: opcode 106, format R16_AD (43_logic_shift R309). -/
  | xorR16Ad (d : RegIdx) (a : Word)
  /-- `XOR reg16, word`: opcode 107, format R16_W (43_logic_shift R310). -/
  | xorR16W (d : RegIdx) (v : Word)
  /-- `XORB reg8, reg8`: opcode 108, format R8_R8 (43_logic_shift R311). -/
  | xorbR8R8 (d : RegIdx) (r : RegIdx)
  /-- `XORB reg8, [reg16±off]`: opcode 109, format R8_RA (43_logic_shift R312). -/
  | xorbR8Ra (d : RegIdx) (m : RegAddr)
  /-- `XORB reg8, [addr]`: opcode 110, format R8_AD (43_logic_shift R313). -/
  | xorbR8Ad (d : RegIdx) (a : Word)
  /-- `XORB reg8, byte`: opcode 111, format R8_B (43_logic_shift R314). -/
  | xorbR8B (d : RegIdx) (v : Byte)
  /-- `NOT reg16`: opcode 112, format R16 (43_logic_shift R315). -/
  | notR16 (r : RegIdx)
  /-- `NOTB reg8`: opcode 113, format R8 (43_logic_shift R316). -/
  | notbR8 (r : RegIdx)
  /-- `SHL reg16, reg16`: opcode 114, format R16_R16 (43_logic_shift R317). -/
  | shlR16R16 (d : RegIdx) (r : RegIdx)
  /-- `SHL reg16, [reg16±off]`: opcode 115, format R16_RA (43_logic_shift R318). -/
  | shlR16Ra (d : RegIdx) (m : RegAddr)
  /-- `SHL reg16, [addr]`: opcode 116, format R16_AD (43_logic_shift R319). -/
  | shlR16Ad (d : RegIdx) (a : Word)
  /-- `SHL reg16, word`: opcode 117, format R16_W (43_logic_shift R320). -/
  | shlR16W (d : RegIdx) (v : Word)
  /-- `SHLB reg8, reg8`: opcode 118, format R8_R8 (43_logic_shift R321). -/
  | shlbR8R8 (d : RegIdx) (r : RegIdx)
  /-- `SHLB reg8, [reg16±off]`: opcode 119, format R8_RA (43_logic_shift R322). -/
  | shlbR8Ra (d : RegIdx) (m : RegAddr)
  /-- `SHLB reg8, [addr]`: opcode 120, format R8_AD (43_logic_shift R323). -/
  | shlbR8Ad (d : RegIdx) (a : Word)
  /-- `SHLB reg8, byte`: opcode 121, format R8_B (43_logic_shift R324). -/
  | shlbR8B (d : RegIdx) (v : Byte)
  /-- `SHR reg16, reg16`: opcode 122, format R16_R16 (43_logic_shift R325). -/
  | shrR16R16 (d : RegIdx) (r : RegIdx)
  /-- `SHR reg16, [reg16±off]`: opcode 123, format R16_RA (43_logic_shift R326). -/
  | shrR16Ra (d : RegIdx) (m : RegAddr)
  /-- `SHR reg16, [addr]`: opcode 124, format R16_AD (43_logic_shift R327). -/
  | shrR16Ad (d : RegIdx) (a : Word)
  /-- `SHR reg16, word`: opcode 125, format R16_W (43_logic_shift R328). -/
  | shrR16W (d : RegIdx) (v : Word)
  /-- `SHRB reg8, reg8`: opcode 126, format R8_R8 (43_logic_shift R329). -/
  | shrbR8R8 (d : RegIdx) (r : RegIdx)
  /-- `SHRB reg8, [reg16±off]`: opcode 127, format R8_RA (43_logic_shift R330). -/
  | shrbR8Ra (d : RegIdx) (m : RegAddr)
  /-- `SHRB reg8, [addr]`: opcode 128, format R8_AD (43_logic_shift R331). -/
  | shrbR8Ad (d : RegIdx) (a : Word)
  /-- `SHRB reg8, byte`: opcode 129, format R8_B (43_logic_shift R332). -/
  | shrbR8B (d : RegIdx) (v : Byte)
  /-- `CLI`: opcode 130, format N (46_system R382). -/
  | cli
  /-- `STI`: opcode 131, format N (46_system R383). -/
  | sti
  /-- `IRET`: opcode 132, format N (46_system R384). -/
  | iret
  /-- `SVC`: opcode 133, format N (46_system R385). -/
  | svc
  /-- `IN reg16`: opcode 134, format R16 (46_system R386). -/
  | inR16 (r : RegIdx)
  /-- `IN [reg16±off]`: opcode 135, format RA (46_system R387). -/
  | inRa (m : RegAddr)
  /-- `IN [addr]`: opcode 136, format AD (46_system R388). -/
  | inAd (a : Word)
  /-- `IN word`: opcode 137, format W (46_system R389). -/
  | inW (v : Word)
  /-- `OUT reg16`: opcode 138, format R16 (46_system R390). -/
  | outR16 (r : RegIdx)
  /-- `OUT [reg16±off]`: opcode 139, format RA (46_system R391). -/
  | outRa (m : RegAddr)
  /-- `OUT [addr]`: opcode 140, format AD (46_system R392). -/
  | outAd (a : Word)
  /-- `OUT word`: opcode 141, format W (46_system R393). -/
  | outW (v : Word)
  deriving DecidableEq, Repr

/-- The operands of an instruction, in the order they are written and encoded (30_encoding R120). -/
def Instr.operands : Instr → List Operand
  | .hlt => []
  | .movR16R16 d r => [.r16 d, .r16 r]
  | .movR16Ad d a => [.r16 d, .addr a]
  | .movR16Ra d m => [.r16 d, .regAddr m]
  | .movAdR16 a r => [.addr a, .r16 r]
  | .movRaR16 m r => [.regAddr m, .r16 r]
  | .movR16W d v => [.r16 d, .word v]
  | .movAdW a v => [.addr a, .word v]
  | .movRaW m v => [.regAddr m, .word v]
  | .movbR8R8 d r => [.r8 d, .r8 r]
  | .movbR8Ad d a => [.r8 d, .addr a]
  | .movbR8Ra d m => [.r8 d, .regAddr m]
  | .movbAdR8 a r => [.addr a, .r8 r]
  | .movbRaR8 m r => [.regAddr m, .r8 r]
  | .movbR8B d v => [.r8 d, .byte v]
  | .movbAdB a v => [.addr a, .byte v]
  | .movbRaB m v => [.regAddr m, .byte v]
  | .addR16R16 d r => [.r16 d, .r16 r]
  | .addR16Ra d m => [.r16 d, .regAddr m]
  | .addR16Ad d a => [.r16 d, .addr a]
  | .addR16W d v => [.r16 d, .word v]
  | .addbR8R8 d r => [.r8 d, .r8 r]
  | .addbR8Ra d m => [.r8 d, .regAddr m]
  | .addbR8Ad d a => [.r8 d, .addr a]
  | .addbR8B d v => [.r8 d, .byte v]
  | .subR16R16 d r => [.r16 d, .r16 r]
  | .subR16Ra d m => [.r16 d, .regAddr m]
  | .subR16Ad d a => [.r16 d, .addr a]
  | .subR16W d v => [.r16 d, .word v]
  | .subbR8R8 d r => [.r8 d, .r8 r]
  | .subbR8Ra d m => [.r8 d, .regAddr m]
  | .subbR8Ad d a => [.r8 d, .addr a]
  | .subbR8B d v => [.r8 d, .byte v]
  | .incR16 r => [.r16 r]
  | .incbR8 r => [.r8 r]
  | .decR16 r => [.r16 r]
  | .decbR8 r => [.r8 r]
  | .cmpR16R16 d r => [.r16 d, .r16 r]
  | .cmpR16Ra d m => [.r16 d, .regAddr m]
  | .cmpR16Ad d a => [.r16 d, .addr a]
  | .cmpR16W d v => [.r16 d, .word v]
  | .cmpbR8R8 d r => [.r8 d, .r8 r]
  | .cmpbR8Ra d m => [.r8 d, .regAddr m]
  | .cmpbR8Ad d a => [.r8 d, .addr a]
  | .cmpbR8B d v => [.r8 d, .byte v]
  | .jmpRa m => [.regAddr m]
  | .jmpW v => [.word v]
  | .jcRa m => [.regAddr m]
  | .jcW v => [.word v]
  | .jncRa m => [.regAddr m]
  | .jncW v => [.word v]
  | .jzRa m => [.regAddr m]
  | .jzW v => [.word v]
  | .jnzRa m => [.regAddr m]
  | .jnzW v => [.word v]
  | .jaRa m => [.regAddr m]
  | .jaW v => [.word v]
  | .jnaRa m => [.regAddr m]
  | .jnaW v => [.word v]
  | .pushR16 r => [.r16 r]
  | .pushRa m => [.regAddr m]
  | .pushAd a => [.addr a]
  | .pushW v => [.word v]
  | .pushbR8 r => [.r8 r]
  | .pushbRa m => [.regAddr m]
  | .pushbAd a => [.addr a]
  | .pushbB v => [.byte v]
  | .popR16 r => [.r16 r]
  | .popbR8 r => [.r8 r]
  | .callRa m => [.regAddr m]
  | .callW v => [.word v]
  | .ret => []
  | .mulR16 r => [.r16 r]
  | .mulRa m => [.regAddr m]
  | .mulAd a => [.addr a]
  | .mulW v => [.word v]
  | .mulbR8 r => [.r8 r]
  | .mulbRa m => [.regAddr m]
  | .mulbAd a => [.addr a]
  | .mulbB v => [.byte v]
  | .divR16 r => [.r16 r]
  | .divRa m => [.regAddr m]
  | .divAd a => [.addr a]
  | .divW v => [.word v]
  | .divbR8 r => [.r8 r]
  | .divbRa m => [.regAddr m]
  | .divbAd a => [.addr a]
  | .divbB v => [.byte v]
  | .andR16R16 d r => [.r16 d, .r16 r]
  | .andR16Ra d m => [.r16 d, .regAddr m]
  | .andR16Ad d a => [.r16 d, .addr a]
  | .andR16W d v => [.r16 d, .word v]
  | .andbR8R8 d r => [.r8 d, .r8 r]
  | .andbR8Ra d m => [.r8 d, .regAddr m]
  | .andbR8Ad d a => [.r8 d, .addr a]
  | .andbR8B d v => [.r8 d, .byte v]
  | .orR16R16 d r => [.r16 d, .r16 r]
  | .orR16Ra d m => [.r16 d, .regAddr m]
  | .orR16Ad d a => [.r16 d, .addr a]
  | .orR16W d v => [.r16 d, .word v]
  | .orbR8R8 d r => [.r8 d, .r8 r]
  | .orbR8Ra d m => [.r8 d, .regAddr m]
  | .orbR8Ad d a => [.r8 d, .addr a]
  | .orbR8B d v => [.r8 d, .byte v]
  | .xorR16R16 d r => [.r16 d, .r16 r]
  | .xorR16Ra d m => [.r16 d, .regAddr m]
  | .xorR16Ad d a => [.r16 d, .addr a]
  | .xorR16W d v => [.r16 d, .word v]
  | .xorbR8R8 d r => [.r8 d, .r8 r]
  | .xorbR8Ra d m => [.r8 d, .regAddr m]
  | .xorbR8Ad d a => [.r8 d, .addr a]
  | .xorbR8B d v => [.r8 d, .byte v]
  | .notR16 r => [.r16 r]
  | .notbR8 r => [.r8 r]
  | .shlR16R16 d r => [.r16 d, .r16 r]
  | .shlR16Ra d m => [.r16 d, .regAddr m]
  | .shlR16Ad d a => [.r16 d, .addr a]
  | .shlR16W d v => [.r16 d, .word v]
  | .shlbR8R8 d r => [.r8 d, .r8 r]
  | .shlbR8Ra d m => [.r8 d, .regAddr m]
  | .shlbR8Ad d a => [.r8 d, .addr a]
  | .shlbR8B d v => [.r8 d, .byte v]
  | .shrR16R16 d r => [.r16 d, .r16 r]
  | .shrR16Ra d m => [.r16 d, .regAddr m]
  | .shrR16Ad d a => [.r16 d, .addr a]
  | .shrR16W d v => [.r16 d, .word v]
  | .shrbR8R8 d r => [.r8 d, .r8 r]
  | .shrbR8Ra d m => [.r8 d, .regAddr m]
  | .shrbR8Ad d a => [.r8 d, .addr a]
  | .shrbR8B d v => [.r8 d, .byte v]
  | .cli => []
  | .sti => []
  | .iret => []
  | .svc => []
  | .inR16 r => [.r16 r]
  | .inRa m => [.regAddr m]
  | .inAd a => [.addr a]
  | .inW v => [.word v]
  | .outR16 r => [.r16 r]
  | .outRa m => [.regAddr m]
  | .outAd a => [.addr a]
  | .outW v => [.word v]

end Sys2Proof
end

