-- ==== Sys2Proof/WellFormed.lean ====
section
/-! DEFINITION. Well-formed instructions (every register byte in the class its operand asks for, 30_encoding R126 to R128) and
valid parameters (00_scope R6, 20_memory R82, 70_reset_and_hazards R563). -/

namespace Sys2Proof

/-- An operand whose register byte, if it has one, is in the class of 10_state R34; every BYTE, WORD, ADDRESS and offset value
is legal (30_encoding R133). -/
def Operand.wf : Operand → Bool
  | .r16 i => isReg16 i
  | .r8 i => isReg8 i
  | .byte _ => true
  | .word _ => true
  | .addr _ => true
  | .regAddr m => isReg16 m.base

/-- Every operand of the instruction is legal: executing it raises no IllegalInstruction for a register byte. -/
def Instr.wf (i : Instr) : Bool := i.operands.all Operand.wf

/-- Every two entries of the list satisfy `p`, the earlier one given first. -/
def allPairs {α : Type} (p : α → α → Bool) : List α → Bool
  | [] => true
  | x :: xs => xs.all (p x) && allPairs p xs

/-- A region lies in memory: `0 <= start <= end < MEM_SIZE` (20_memory R82). -/
def Region.inMemory (memSize : Nat) (r : Region) : Bool :=
  decide (r.start ≤ r.stop) && decide (r.stop < memSize)

/-- Two regions share no address (20_memory R82). -/
def Region.disjoint (r q : Region) : Bool :=
  decide (r.stop < q.start) || decide (q.stop < r.start)

/-- The I/O addresses of all registers that exist: the five of the core, then those of `EXT_IO` (60_exceptions R497). -/
def Config.ioAddresses (c : Config) : List Word :=
  [ioIrqMask, ioIrqStatus, ioIrqEoi, c.ioTmrPreload, c.ioTmrCounter] ++ c.extIo.map ExtIoReg.addr

/-- The validity conditions of the parameters (00_scope R6, 20_memory R82). A machine with other parameters is not refused; statements that need
them valid say so (DESIGN CHOICE, safe, log 15). -/
def Config.wf (c : Config) : Bool :=
  decide (12 ≤ c.memSize) && decide (c.memSize ≤ 65536)
    && c.regions.all (Region.inMemory c.memSize)
    && allPairs Region.disjoint c.regions
    && allPairs (fun a b => a != b) c.ioAddresses

end Sys2Proof
end

