-- ==== Sys2Proof/Decode.lean ====
section
/-! DEFINITION. The instruction-set registry (30_encoding R131), the decoder (R124), and after it the encoder (R120 to R123). -/

namespace Sys2Proof

/-- Why a byte string is not an instruction. Each reason is the exception the decode procedure raises (30_encoding R124). -/
inductive DecodeError where
  /-- A byte the instruction needs lies outside memory: InstructionFetchError (20_memory R90). -/
  | fetch
  /-- The opcode byte is 142 to 255: UnknownOpcode (30_encoding R132). -/
  | unknownOpcode
  /-- The base of a REGADDRESS operand is not A, B, C, D or SP: IllegalInstruction (30_encoding R128). -/
  | illegalBase
  deriving DecidableEq, Repr

/-- `Fetch(cur, 1)`: the next byte of the instruction stream. The list holds the bytes memory has from the cursor on, so an empty
list is a cursor outside memory (20_memory R90). -/
def takeByte : List Byte → Except DecodeError (Byte × List Byte)
  | b :: bs => .ok (b, bs)
  | [] => .error .fetch

/-- `Fetch(cur, 2)`: the next two bytes, big-endian (20_memory R90, 30_encoding R125). -/
def takeWord : List Byte → Except DecodeError (Word × List Byte)
  | hi :: lo :: bs => .ok (joinBytes hi lo, bs)
  | _ => .error .fetch

/-- A REGADDRESS operand: both bytes are fetched, then the base is checked, before the next operand's bytes are touched
(30_encoding R124, R128). -/
def takeRegAddr : List Byte → Except DecodeError (RegAddr × List Byte)
  | off :: base :: bs => if isReg16 base then .ok (⟨off, base⟩, bs) else .error .illegalBase
  | _ => .error .fetch

/-- A format of 30_encoding R123: the types of its operands, and the reader of the operand bytes, left to right. -/
structure Shape where
  types : List OperandType
  parse : List Byte → Except DecodeError (Instr × List Byte)

/-- Format N. -/
def shapeN (k : Instr) : Shape where
  types := []
  parse := fun bs => .ok (k, bs)

/-- Format R16. -/
def shapeR16 (k : RegIdx → Instr) : Shape where
  types := [.r16]
  parse := fun bs => do
    let (r, bs) ← takeByte bs
    return (k r, bs)

/-- Format R8. -/
def shapeR8 (k : RegIdx → Instr) : Shape where
  types := [.r8]
  parse := fun bs => do
    let (r, bs) ← takeByte bs
    return (k r, bs)

/-- Format B. -/
def shapeB (k : Byte → Instr) : Shape where
  types := [.byte]
  parse := fun bs => do
    let (v, bs) ← takeByte bs
    return (k v, bs)

/-- Format W. -/
def shapeW (k : Word → Instr) : Shape where
  types := [.word]
  parse := fun bs => do
    let (v, bs) ← takeWord bs
    return (k v, bs)

/-- Format AD. -/
def shapeAd (k : Word → Instr) : Shape where
  types := [.addr]
  parse := fun bs => do
    let (a, bs) ← takeWord bs
    return (k a, bs)

/-- Format RA. -/
def shapeRa (k : RegAddr → Instr) : Shape where
  types := [.regAddr]
  parse := fun bs => do
    let (m, bs) ← takeRegAddr bs
    return (k m, bs)

/-- Format R16_R16. -/
def shapeR16R16 (k : RegIdx → RegIdx → Instr) : Shape where
  types := [.r16, .r16]
  parse := fun bs => do
    let (d, bs) ← takeByte bs
    let (r, bs) ← takeByte bs
    return (k d r, bs)

/-- Format R8_R8. -/
def shapeR8R8 (k : RegIdx → RegIdx → Instr) : Shape where
  types := [.r8, .r8]
  parse := fun bs => do
    let (d, bs) ← takeByte bs
    let (r, bs) ← takeByte bs
    return (k d r, bs)

/-- Format R8_B. -/
def shapeR8B (k : RegIdx → Byte → Instr) : Shape where
  types := [.r8, .byte]
  parse := fun bs => do
    let (d, bs) ← takeByte bs
    let (v, bs) ← takeByte bs
    return (k d v, bs)

/-- Format R16_W. -/
def shapeR16W (k : RegIdx → Word → Instr) : Shape where
  types := [.r16, .word]
  parse := fun bs => do
    let (d, bs) ← takeByte bs
    let (v, bs) ← takeWord bs
    return (k d v, bs)

/-- Format R16_AD. -/
def shapeR16Ad (k : RegIdx → Word → Instr) : Shape where
  types := [.r16, .addr]
  parse := fun bs => do
    let (d, bs) ← takeByte bs
    let (a, bs) ← takeWord bs
    return (k d a, bs)

/-- Format R16_RA. -/
def shapeR16Ra (k : RegIdx → RegAddr → Instr) : Shape where
  types := [.r16, .regAddr]
  parse := fun bs => do
    let (d, bs) ← takeByte bs
    let (m, bs) ← takeRegAddr bs
    return (k d m, bs)

/-- Format R8_AD. -/
def shapeR8Ad (k : RegIdx → Word → Instr) : Shape where
  types := [.r8, .addr]
  parse := fun bs => do
    let (d, bs) ← takeByte bs
    let (a, bs) ← takeWord bs
    return (k d a, bs)

/-- Format R8_RA. -/
def shapeR8Ra (k : RegIdx → RegAddr → Instr) : Shape where
  types := [.r8, .regAddr]
  parse := fun bs => do
    let (d, bs) ← takeByte bs
    let (m, bs) ← takeRegAddr bs
    return (k d m, bs)

/-- Format AD_R16. -/
def shapeAdR16 (k : Word → RegIdx → Instr) : Shape where
  types := [.addr, .r16]
  parse := fun bs => do
    let (a, bs) ← takeWord bs
    let (r, bs) ← takeByte bs
    return (k a r, bs)

/-- Format RA_R16. -/
def shapeRaR16 (k : RegAddr → RegIdx → Instr) : Shape where
  types := [.regAddr, .r16]
  parse := fun bs => do
    let (m, bs) ← takeRegAddr bs
    let (r, bs) ← takeByte bs
    return (k m r, bs)

/-- Format AD_R8. -/
def shapeAdR8 (k : Word → RegIdx → Instr) : Shape where
  types := [.addr, .r8]
  parse := fun bs => do
    let (a, bs) ← takeWord bs
    let (r, bs) ← takeByte bs
    return (k a r, bs)

/-- Format RA_R8. -/
def shapeRaR8 (k : RegAddr → RegIdx → Instr) : Shape where
  types := [.regAddr, .r8]
  parse := fun bs => do
    let (m, bs) ← takeRegAddr bs
    let (r, bs) ← takeByte bs
    return (k m r, bs)

/-- Format AD_B. -/
def shapeAdB (k : Word → Byte → Instr) : Shape where
  types := [.addr, .byte]
  parse := fun bs => do
    let (a, bs) ← takeWord bs
    let (v, bs) ← takeByte bs
    return (k a v, bs)

/-- Format RA_B. -/
def shapeRaB (k : RegAddr → Byte → Instr) : Shape where
  types := [.regAddr, .byte]
  parse := fun bs => do
    let (m, bs) ← takeRegAddr bs
    let (v, bs) ← takeByte bs
    return (k m v, bs)

/-- Format AD_W. -/
def shapeAdW (k : Word → Word → Instr) : Shape where
  types := [.addr, .word]
  parse := fun bs => do
    let (a, bs) ← takeWord bs
    let (v, bs) ← takeWord bs
    return (k a v, bs)

/-- Format RA_W. -/
def shapeRaW (k : RegAddr → Word → Instr) : Shape where
  types := [.regAddr, .word]
  parse := fun bs => do
    let (m, bs) ← takeRegAddr bs
    let (v, bs) ← takeWord bs
    return (k m v, bs)

/-- One row of the opcode map: opcode number, mnemonic (as its letters), format with the constructor it builds (30_encoding R131). -/
structure Row where
  opcode   : Byte
  mnemonic : List Char
  shape    : Shape

/-- Data movement and HLT: opcodes 0 to 16 (30_encoding R131). -/
def rowsMove : List Row := [
  ⟨0x00, ['H', 'L', 'T'], shapeN .hlt⟩,
  ⟨0x01, ['M', 'O', 'V'], shapeR16R16 .movR16R16⟩,
  ⟨0x02, ['M', 'O', 'V'], shapeR16Ad .movR16Ad⟩,
  ⟨0x03, ['M', 'O', 'V'], shapeR16Ra .movR16Ra⟩,
  ⟨0x04, ['M', 'O', 'V'], shapeAdR16 .movAdR16⟩,
  ⟨0x05, ['M', 'O', 'V'], shapeRaR16 .movRaR16⟩,
  ⟨0x06, ['M', 'O', 'V'], shapeR16W .movR16W⟩,
  ⟨0x07, ['M', 'O', 'V'], shapeAdW .movAdW⟩,
  ⟨0x08, ['M', 'O', 'V'], shapeRaW .movRaW⟩,
  ⟨0x09, ['M', 'O', 'V', 'B'], shapeR8R8 .movbR8R8⟩,
  ⟨0x0A, ['M', 'O', 'V', 'B'], shapeR8Ad .movbR8Ad⟩,
  ⟨0x0B, ['M', 'O', 'V', 'B'], shapeR8Ra .movbR8Ra⟩,
  ⟨0x0C, ['M', 'O', 'V', 'B'], shapeAdR8 .movbAdR8⟩,
  ⟨0x0D, ['M', 'O', 'V', 'B'], shapeRaR8 .movbRaR8⟩,
  ⟨0x0E, ['M', 'O', 'V', 'B'], shapeR8B .movbR8B⟩,
  ⟨0x0F, ['M', 'O', 'V', 'B'], shapeAdB .movbAdB⟩,
  ⟨0x10, ['M', 'O', 'V', 'B'], shapeRaB .movbRaB⟩]

/-- ADD to DECB: opcodes 17 to 36 (30_encoding R131). -/
def rowsAddSub : List Row := [
  ⟨0x11, ['A', 'D', 'D'], shapeR16R16 .addR16R16⟩,
  ⟨0x12, ['A', 'D', 'D'], shapeR16Ra .addR16Ra⟩,
  ⟨0x13, ['A', 'D', 'D'], shapeR16Ad .addR16Ad⟩,
  ⟨0x14, ['A', 'D', 'D'], shapeR16W .addR16W⟩,
  ⟨0x15, ['A', 'D', 'D', 'B'], shapeR8R8 .addbR8R8⟩,
  ⟨0x16, ['A', 'D', 'D', 'B'], shapeR8Ra .addbR8Ra⟩,
  ⟨0x17, ['A', 'D', 'D', 'B'], shapeR8Ad .addbR8Ad⟩,
  ⟨0x18, ['A', 'D', 'D', 'B'], shapeR8B .addbR8B⟩,
  ⟨0x19, ['S', 'U', 'B'], shapeR16R16 .subR16R16⟩,
  ⟨0x1A, ['S', 'U', 'B'], shapeR16Ra .subR16Ra⟩,
  ⟨0x1B, ['S', 'U', 'B'], shapeR16Ad .subR16Ad⟩,
  ⟨0x1C, ['S', 'U', 'B'], shapeR16W .subR16W⟩,
  ⟨0x1D, ['S', 'U', 'B', 'B'], shapeR8R8 .subbR8R8⟩,
  ⟨0x1E, ['S', 'U', 'B', 'B'], shapeR8Ra .subbR8Ra⟩,
  ⟨0x1F, ['S', 'U', 'B', 'B'], shapeR8Ad .subbR8Ad⟩,
  ⟨0x20, ['S', 'U', 'B', 'B'], shapeR8B .subbR8B⟩,
  ⟨0x21, ['I', 'N', 'C'], shapeR16 .incR16⟩,
  ⟨0x22, ['I', 'N', 'C', 'B'], shapeR8 .incbR8⟩,
  ⟨0x23, ['D', 'E', 'C'], shapeR16 .decR16⟩,
  ⟨0x24, ['D', 'E', 'C', 'B'], shapeR8 .decbR8⟩]

/-- CMP and CMPB: opcodes 37 to 44 (30_encoding R131). -/
def rowsCompare : List Row := [
  ⟨0x25, ['C', 'M', 'P'], shapeR16R16 .cmpR16R16⟩,
  ⟨0x26, ['C', 'M', 'P'], shapeR16Ra .cmpR16Ra⟩,
  ⟨0x27, ['C', 'M', 'P'], shapeR16Ad .cmpR16Ad⟩,
  ⟨0x28, ['C', 'M', 'P'], shapeR16W .cmpR16W⟩,
  ⟨0x29, ['C', 'M', 'P', 'B'], shapeR8R8 .cmpbR8R8⟩,
  ⟨0x2A, ['C', 'M', 'P', 'B'], shapeR8Ra .cmpbR8Ra⟩,
  ⟨0x2B, ['C', 'M', 'P', 'B'], shapeR8Ad .cmpbR8Ad⟩,
  ⟨0x2C, ['C', 'M', 'P', 'B'], shapeR8B .cmpbR8B⟩]

/-- Jumps: opcodes 45 to 58 (30_encoding R131). -/
def rowsJump : List Row := [
  ⟨0x2D, ['J', 'M', 'P'], shapeRa .jmpRa⟩,
  ⟨0x2E, ['J', 'M', 'P'], shapeW .jmpW⟩,
  ⟨0x2F, ['J', 'C'], shapeRa .jcRa⟩,
  ⟨0x30, ['J', 'C'], shapeW .jcW⟩,
  ⟨0x31, ['J', 'N', 'C'], shapeRa .jncRa⟩,
  ⟨0x32, ['J', 'N', 'C'], shapeW .jncW⟩,
  ⟨0x33, ['J', 'Z'], shapeRa .jzRa⟩,
  ⟨0x34, ['J', 'Z'], shapeW .jzW⟩,
  ⟨0x35, ['J', 'N', 'Z'], shapeRa .jnzRa⟩,
  ⟨0x36, ['J', 'N', 'Z'], shapeW .jnzW⟩,
  ⟨0x37, ['J', 'A'], shapeRa .jaRa⟩,
  ⟨0x38, ['J', 'A'], shapeW .jaW⟩,
  ⟨0x39, ['J', 'N', 'A'], shapeRa .jnaRa⟩,
  ⟨0x3A, ['J', 'N', 'A'], shapeW .jnaW⟩]

/-- Stack, CALL and RET: opcodes 59 to 71 (30_encoding R131). -/
def rowsStack : List Row := [
  ⟨0x3B, ['P', 'U', 'S', 'H'], shapeR16 .pushR16⟩,
  ⟨0x3C, ['P', 'U', 'S', 'H'], shapeRa .pushRa⟩,
  ⟨0x3D, ['P', 'U', 'S', 'H'], shapeAd .pushAd⟩,
  ⟨0x3E, ['P', 'U', 'S', 'H'], shapeW .pushW⟩,
  ⟨0x3F, ['P', 'U', 'S', 'H', 'B'], shapeR8 .pushbR8⟩,
  ⟨0x40, ['P', 'U', 'S', 'H', 'B'], shapeRa .pushbRa⟩,
  ⟨0x41, ['P', 'U', 'S', 'H', 'B'], shapeAd .pushbAd⟩,
  ⟨0x42, ['P', 'U', 'S', 'H', 'B'], shapeB .pushbB⟩,
  ⟨0x43, ['P', 'O', 'P'], shapeR16 .popR16⟩,
  ⟨0x44, ['P', 'O', 'P', 'B'], shapeR8 .popbR8⟩,
  ⟨0x45, ['C', 'A', 'L', 'L'], shapeRa .callRa⟩,
  ⟨0x46, ['C', 'A', 'L', 'L'], shapeW .callW⟩,
  ⟨0x47, ['R', 'E', 'T'], shapeN .ret⟩]

/-- Multiply and divide: opcodes 72 to 87 (30_encoding R131). -/
def rowsMulDiv : List Row := [
  ⟨0x48, ['M', 'U', 'L'], shapeR16 .mulR16⟩,
  ⟨0x49, ['M', 'U', 'L'], shapeRa .mulRa⟩,
  ⟨0x4A, ['M', 'U', 'L'], shapeAd .mulAd⟩,
  ⟨0x4B, ['M', 'U', 'L'], shapeW .mulW⟩,
  ⟨0x4C, ['M', 'U', 'L', 'B'], shapeR8 .mulbR8⟩,
  ⟨0x4D, ['M', 'U', 'L', 'B'], shapeRa .mulbRa⟩,
  ⟨0x4E, ['M', 'U', 'L', 'B'], shapeAd .mulbAd⟩,
  ⟨0x4F, ['M', 'U', 'L', 'B'], shapeB .mulbB⟩,
  ⟨0x50, ['D', 'I', 'V'], shapeR16 .divR16⟩,
  ⟨0x51, ['D', 'I', 'V'], shapeRa .divRa⟩,
  ⟨0x52, ['D', 'I', 'V'], shapeAd .divAd⟩,
  ⟨0x53, ['D', 'I', 'V'], shapeW .divW⟩,
  ⟨0x54, ['D', 'I', 'V', 'B'], shapeR8 .divbR8⟩,
  ⟨0x55, ['D', 'I', 'V', 'B'], shapeRa .divbRa⟩,
  ⟨0x56, ['D', 'I', 'V', 'B'], shapeAd .divbAd⟩,
  ⟨0x57, ['D', 'I', 'V', 'B'], shapeB .divbB⟩]

/-- AND to XORB: opcodes 88 to 111 (30_encoding R131). -/
def rowsBitwise : List Row := [
  ⟨0x58, ['A', 'N', 'D'], shapeR16R16 .andR16R16⟩,
  ⟨0x59, ['A', 'N', 'D'], shapeR16Ra .andR16Ra⟩,
  ⟨0x5A, ['A', 'N', 'D'], shapeR16Ad .andR16Ad⟩,
  ⟨0x5B, ['A', 'N', 'D'], shapeR16W .andR16W⟩,
  ⟨0x5C, ['A', 'N', 'D', 'B'], shapeR8R8 .andbR8R8⟩,
  ⟨0x5D, ['A', 'N', 'D', 'B'], shapeR8Ra .andbR8Ra⟩,
  ⟨0x5E, ['A', 'N', 'D', 'B'], shapeR8Ad .andbR8Ad⟩,
  ⟨0x5F, ['A', 'N', 'D', 'B'], shapeR8B .andbR8B⟩,
  ⟨0x60, ['O', 'R'], shapeR16R16 .orR16R16⟩,
  ⟨0x61, ['O', 'R'], shapeR16Ra .orR16Ra⟩,
  ⟨0x62, ['O', 'R'], shapeR16Ad .orR16Ad⟩,
  ⟨0x63, ['O', 'R'], shapeR16W .orR16W⟩,
  ⟨0x64, ['O', 'R', 'B'], shapeR8R8 .orbR8R8⟩,
  ⟨0x65, ['O', 'R', 'B'], shapeR8Ra .orbR8Ra⟩,
  ⟨0x66, ['O', 'R', 'B'], shapeR8Ad .orbR8Ad⟩,
  ⟨0x67, ['O', 'R', 'B'], shapeR8B .orbR8B⟩,
  ⟨0x68, ['X', 'O', 'R'], shapeR16R16 .xorR16R16⟩,
  ⟨0x69, ['X', 'O', 'R'], shapeR16Ra .xorR16Ra⟩,
  ⟨0x6A, ['X', 'O', 'R'], shapeR16Ad .xorR16Ad⟩,
  ⟨0x6B, ['X', 'O', 'R'], shapeR16W .xorR16W⟩,
  ⟨0x6C, ['X', 'O', 'R', 'B'], shapeR8R8 .xorbR8R8⟩,
  ⟨0x6D, ['X', 'O', 'R', 'B'], shapeR8Ra .xorbR8Ra⟩,
  ⟨0x6E, ['X', 'O', 'R', 'B'], shapeR8Ad .xorbR8Ad⟩,
  ⟨0x6F, ['X', 'O', 'R', 'B'], shapeR8B .xorbR8B⟩]

/-- NOT and shifts: opcodes 112 to 129 (30_encoding R131). -/
def rowsShift : List Row := [
  ⟨0x70, ['N', 'O', 'T'], shapeR16 .notR16⟩,
  ⟨0x71, ['N', 'O', 'T', 'B'], shapeR8 .notbR8⟩,
  ⟨0x72, ['S', 'H', 'L'], shapeR16R16 .shlR16R16⟩,
  ⟨0x73, ['S', 'H', 'L'], shapeR16Ra .shlR16Ra⟩,
  ⟨0x74, ['S', 'H', 'L'], shapeR16Ad .shlR16Ad⟩,
  ⟨0x75, ['S', 'H', 'L'], shapeR16W .shlR16W⟩,
  ⟨0x76, ['S', 'H', 'L', 'B'], shapeR8R8 .shlbR8R8⟩,
  ⟨0x77, ['S', 'H', 'L', 'B'], shapeR8Ra .shlbR8Ra⟩,
  ⟨0x78, ['S', 'H', 'L', 'B'], shapeR8Ad .shlbR8Ad⟩,
  ⟨0x79, ['S', 'H', 'L', 'B'], shapeR8B .shlbR8B⟩,
  ⟨0x7A, ['S', 'H', 'R'], shapeR16R16 .shrR16R16⟩,
  ⟨0x7B, ['S', 'H', 'R'], shapeR16Ra .shrR16Ra⟩,
  ⟨0x7C, ['S', 'H', 'R'], shapeR16Ad .shrR16Ad⟩,
  ⟨0x7D, ['S', 'H', 'R'], shapeR16W .shrR16W⟩,
  ⟨0x7E, ['S', 'H', 'R', 'B'], shapeR8R8 .shrbR8R8⟩,
  ⟨0x7F, ['S', 'H', 'R', 'B'], shapeR8Ra .shrbR8Ra⟩,
  ⟨0x80, ['S', 'H', 'R', 'B'], shapeR8Ad .shrbR8Ad⟩,
  ⟨0x81, ['S', 'H', 'R', 'B'], shapeR8B .shrbR8B⟩]

/-- System: opcodes 130 to 141 (30_encoding R131). -/
def rowsSystem : List Row := [
  ⟨0x82, ['C', 'L', 'I'], shapeN .cli⟩,
  ⟨0x83, ['S', 'T', 'I'], shapeN .sti⟩,
  ⟨0x84, ['I', 'R', 'E', 'T'], shapeN .iret⟩,
  ⟨0x85, ['S', 'V', 'C'], shapeN .svc⟩,
  ⟨0x86, ['I', 'N'], shapeR16 .inR16⟩,
  ⟨0x87, ['I', 'N'], shapeRa .inRa⟩,
  ⟨0x88, ['I', 'N'], shapeAd .inAd⟩,
  ⟨0x89, ['I', 'N'], shapeW .inW⟩,
  ⟨0x8A, ['O', 'U', 'T'], shapeR16 .outR16⟩,
  ⟨0x8B, ['O', 'U', 'T'], shapeRa .outRa⟩,
  ⟨0x8C, ['O', 'U', 'T'], shapeAd .outAd⟩,
  ⟨0x8D, ['O', 'U', 'T'], shapeW .outW⟩]

/-- The instruction-set registry: the 142 rows of the opcode map (30_encoding R131). -/
def registry : List Row :=
  rowsMove ++ rowsAddSub ++ rowsCompare ++ rowsJump ++ rowsStack ++ rowsMulDiv ++ rowsBitwise ++ rowsShift ++ rowsSystem

/-- The row of an opcode byte, if it selects one (30_encoding R131, R132). -/
def findRow (op : Byte) : List Row → Option Row
  | [] => none
  | row :: rows => if row.opcode = op then some row else findRow op rows

/-- The decode procedure (30_encoding R124) on the bytes memory holds from IP on: the instruction and the bytes after it, or the
reason there is none. -/
def decode : List Byte → Except DecodeError (Instr × List Byte)
  | [] => .error .fetch
  | op :: bs =>
    match findRow op registry with
    | none => .error .unknownOpcode
    | some row => row.shape.parse bs

/-- Byte `k` of a number whose least significant byte is byte 0. -/
def byteOfNat (w k : Nat) : Byte := BitVec.ofNat 8 (w / 256 ^ k)

/-- The five bytes (the longest instruction) of an instruction given as a number of `nbits` bits: the first byte is the least
significant one, and every bit above `nbits` is 0. -/
def tableBytes (nbits w : Nat) : List Byte :=
  (List.range 5).map (byteOfNat (w % 2 ^ nbits))

/-- The instruction the decoder reads from an instruction whose bits are `w`, numbered as spec/opcode_table.json numbers them. -/
def decodeTableWord (nbits w : Nat) : Option Instr :=
  match decode (tableBytes nbits w) with
  | .ok (i, _) => some i
  | .error _ => none

/-! ### The encoder -/

/-- The opcode byte of an instruction (30_encoding R131). -/
def Instr.opcode : Instr → Byte
  | .hlt => 0x00
  | .movR16R16 _ _ => 0x01
  | .movR16Ad _ _ => 0x02
  | .movR16Ra _ _ => 0x03
  | .movAdR16 _ _ => 0x04
  | .movRaR16 _ _ => 0x05
  | .movR16W _ _ => 0x06
  | .movAdW _ _ => 0x07
  | .movRaW _ _ => 0x08
  | .movbR8R8 _ _ => 0x09
  | .movbR8Ad _ _ => 0x0A
  | .movbR8Ra _ _ => 0x0B
  | .movbAdR8 _ _ => 0x0C
  | .movbRaR8 _ _ => 0x0D
  | .movbR8B _ _ => 0x0E
  | .movbAdB _ _ => 0x0F
  | .movbRaB _ _ => 0x10
  | .addR16R16 _ _ => 0x11
  | .addR16Ra _ _ => 0x12
  | .addR16Ad _ _ => 0x13
  | .addR16W _ _ => 0x14
  | .addbR8R8 _ _ => 0x15
  | .addbR8Ra _ _ => 0x16
  | .addbR8Ad _ _ => 0x17
  | .addbR8B _ _ => 0x18
  | .subR16R16 _ _ => 0x19
  | .subR16Ra _ _ => 0x1A
  | .subR16Ad _ _ => 0x1B
  | .subR16W _ _ => 0x1C
  | .subbR8R8 _ _ => 0x1D
  | .subbR8Ra _ _ => 0x1E
  | .subbR8Ad _ _ => 0x1F
  | .subbR8B _ _ => 0x20
  | .incR16 _ => 0x21
  | .incbR8 _ => 0x22
  | .decR16 _ => 0x23
  | .decbR8 _ => 0x24
  | .cmpR16R16 _ _ => 0x25
  | .cmpR16Ra _ _ => 0x26
  | .cmpR16Ad _ _ => 0x27
  | .cmpR16W _ _ => 0x28
  | .cmpbR8R8 _ _ => 0x29
  | .cmpbR8Ra _ _ => 0x2A
  | .cmpbR8Ad _ _ => 0x2B
  | .cmpbR8B _ _ => 0x2C
  | .jmpRa _ => 0x2D
  | .jmpW _ => 0x2E
  | .jcRa _ => 0x2F
  | .jcW _ => 0x30
  | .jncRa _ => 0x31
  | .jncW _ => 0x32
  | .jzRa _ => 0x33
  | .jzW _ => 0x34
  | .jnzRa _ => 0x35
  | .jnzW _ => 0x36
  | .jaRa _ => 0x37
  | .jaW _ => 0x38
  | .jnaRa _ => 0x39
  | .jnaW _ => 0x3A
  | .pushR16 _ => 0x3B
  | .pushRa _ => 0x3C
  | .pushAd _ => 0x3D
  | .pushW _ => 0x3E
  | .pushbR8 _ => 0x3F
  | .pushbRa _ => 0x40
  | .pushbAd _ => 0x41
  | .pushbB _ => 0x42
  | .popR16 _ => 0x43
  | .popbR8 _ => 0x44
  | .callRa _ => 0x45
  | .callW _ => 0x46
  | .ret => 0x47
  | .mulR16 _ => 0x48
  | .mulRa _ => 0x49
  | .mulAd _ => 0x4A
  | .mulW _ => 0x4B
  | .mulbR8 _ => 0x4C
  | .mulbRa _ => 0x4D
  | .mulbAd _ => 0x4E
  | .mulbB _ => 0x4F
  | .divR16 _ => 0x50
  | .divRa _ => 0x51
  | .divAd _ => 0x52
  | .divW _ => 0x53
  | .divbR8 _ => 0x54
  | .divbRa _ => 0x55
  | .divbAd _ => 0x56
  | .divbB _ => 0x57
  | .andR16R16 _ _ => 0x58
  | .andR16Ra _ _ => 0x59
  | .andR16Ad _ _ => 0x5A
  | .andR16W _ _ => 0x5B
  | .andbR8R8 _ _ => 0x5C
  | .andbR8Ra _ _ => 0x5D
  | .andbR8Ad _ _ => 0x5E
  | .andbR8B _ _ => 0x5F
  | .orR16R16 _ _ => 0x60
  | .orR16Ra _ _ => 0x61
  | .orR16Ad _ _ => 0x62
  | .orR16W _ _ => 0x63
  | .orbR8R8 _ _ => 0x64
  | .orbR8Ra _ _ => 0x65
  | .orbR8Ad _ _ => 0x66
  | .orbR8B _ _ => 0x67
  | .xorR16R16 _ _ => 0x68
  | .xorR16Ra _ _ => 0x69
  | .xorR16Ad _ _ => 0x6A
  | .xorR16W _ _ => 0x6B
  | .xorbR8R8 _ _ => 0x6C
  | .xorbR8Ra _ _ => 0x6D
  | .xorbR8Ad _ _ => 0x6E
  | .xorbR8B _ _ => 0x6F
  | .notR16 _ => 0x70
  | .notbR8 _ => 0x71
  | .shlR16R16 _ _ => 0x72
  | .shlR16Ra _ _ => 0x73
  | .shlR16Ad _ _ => 0x74
  | .shlR16W _ _ => 0x75
  | .shlbR8R8 _ _ => 0x76
  | .shlbR8Ra _ _ => 0x77
  | .shlbR8Ad _ _ => 0x78
  | .shlbR8B _ _ => 0x79
  | .shrR16R16 _ _ => 0x7A
  | .shrR16Ra _ _ => 0x7B
  | .shrR16Ad _ _ => 0x7C
  | .shrR16W _ _ => 0x7D
  | .shrbR8R8 _ _ => 0x7E
  | .shrbR8Ra _ _ => 0x7F
  | .shrbR8Ad _ _ => 0x80
  | .shrbR8B _ _ => 0x81
  | .cli => 0x82
  | .sti => 0x83
  | .iret => 0x84
  | .svc => 0x85
  | .inR16 _ => 0x86
  | .inRa _ => 0x87
  | .inAd _ => 0x88
  | .inW _ => 0x89
  | .outR16 _ => 0x8A
  | .outRa _ => 0x8B
  | .outAd _ => 0x8C
  | .outW _ => 0x8D

/-- The bytes of one operand (30_encoding R122, 49_assembler R442): words high byte first, a REGADDRESS as its offset byte and then its
base index. -/
def encodeOperand : Operand → List Byte
  | .r16 i => [i]
  | .r8 i => [i]
  | .byte v => [v]
  | .word v => [hiByte v, loByte v]
  | .addr a => [hiByte a, loByte a]
  | .regAddr m => [m.offset, m.base]

/-- The bytes of an instruction: its opcode byte, then its operands' bytes left to right (30_encoding R120). -/
def encode (i : Instr) : List Byte := i.opcode :: i.operands.flatMap encodeOperand

/-- The width in bytes of an operand (30_encoding R121). -/
def Operand.size : Operand → Nat
  | .r16 _ => 1
  | .r8 _ => 1
  | .byte _ => 1
  | .word _ => 2
  | .addr _ => 2
  | .regAddr _ => 2

/-- The encoded size of an instruction: "1 + per-operand width" (30_encoding R121). -/
def Instr.size (i : Instr) : Nat := 1 + (i.operands.map Operand.size).sum

end Sys2Proof
end

