-- ==== Sys2Proof/Machine/State.lean ====
section
/-! DEFINITION. The machine's state as plain data, the reasons a step can stop, and the state after reset (10_state, 70_reset_and_hazards). -/

namespace Sys2Proof.Machine

/-- The states of the timer (10_state R53, 60_exceptions R523). -/
inductive TimerState where
  | reset
  | preloaded
  | running
  | depleted
  deriving DecidableEq, Repr

/-- The six exceptions (60_exceptions R470). A MemoryAccessError carries the failing address, an integer (20_memory R81) or the I/O
address of a failed IN or OUT (20_memory R102). -/
inductive Exc where
  | divideByZero
  | instructionFetch
  | memoryAccess (addr : Int)
  | unknownOpcode
  | illegalInstruction
  | stackAccess
  deriving DecidableEq, Repr

/-- The Memory errors, each with the offending address (20_memory R84, R85). -/
inductive MemError where
  | outOfBounds (addr : Int)
  | readOnly (addr : Int)
  deriving DecidableEq, Repr

/-- Why `step` stops without a next state. -/
inductive Fault where
  /-- Raised by `step` alone, when it is called while SR.FAULT = 1: "step() returns an error and changes nothing" (60_exceptions
  R493; DESIGN CHOICE, log 3). Safe: the spec gives that call no effect. No instruction's meaning answers it. -/
  | machineFaulted
  deriving DecidableEq, Repr

/-- Why an instruction has no meaning. -/
inductive Refusal where
  /-- Reserved for an arm of `exec` whose instruction has no meaning yet; no arm of this model answers it. Safe: nothing can be proved of
  an instruction that is refused. -/
  | notModelled (mnemonic : String)
  deriving DecidableEq, Repr

/-- Memory: the cells that do not hold 0x00, as (address, byte) pairs with addresses rising. An unlisted address holds 0x00, which is
what reset leaves in every cell (10_state R61; log 7). -/
abbrev Memory := List Host.Cell

/-- The whole state of the machine (10_state R30, R50 to R53), with the parameters of 00_scope R6 as a constant part (DESIGN CHOICE, safe,
log 1) and the error report of the last step (DESIGN CHOICE, safe, log 4). -/
structure State where
  /-- The parameters, which nothing changes (00_scope R6, R12; DESIGN CHOICE, safe, log 1). -/
  cfg        : Config
  /-- General register A (10_state R30). -/
  a          : Word
  /-- General register B. -/
  b          : Word
  /-- General register C. -/
  c          : Word
  /-- General register D. -/
  d          : Word
  /-- The user stack pointer (10_state R35). -/
  usp        : Word
  /-- The supervisor stack pointer (10_state R35). -/
  ssp        : Word
  /-- The instruction pointer (10_state R40). -/
  ip         : Word
  /-- The status register, one 16-bit word (10_state R42, R43). -/
  sr         : Word
  /-- Memory (10_state R50). -/
  mem        : Memory
  /-- IO.IRQMASK: which lines are enabled (10_state R52). -/
  icMask     : Word
  /-- IO.IRQSTATUS: which lines are pending (10_state R52). -/
  icStatus   : Word
  /-- The level latch: lines still asserted (10_state R52). -/
  icLevel    : Word
  /-- The value last written to IO.IRQEOI (10_state R52). -/
  icEoi      : Word
  /-- The timer's state (10_state R53). -/
  tmrState   : TimerState
  /-- TMRPRELOAD (10_state R53). -/
  tmrPreload : Word
  /-- TMRCOUNTER (10_state R53). -/
  tmrCounter : Word
  /-- The current values of the `EXT_IO` registers, by I/O address (10_state R51; DESIGN CHOICE, safe, log 11). -/
  extIo      : List (Word × Word)
  /-- The error the last step or line call reported when it put the machine in FAULT; the model's own field (60_exceptions R491,
  R492; DESIGN CHOICE, safe, log 4). -/
  stepError  : Option Exc
  deriving DecidableEq, Repr

/-- The power-on state of a machine with the given parameters (10_state R60, R61, 70_reset_and_hazards R550). -/
def powerOn (cfg : Config) : State where
  cfg := cfg
  a := 0
  b := 0
  c := 0
  d := 0
  usp := 0
  ssp := 0
  ip := 0
  sr := 0x8000
  mem := []
  icMask := 0
  icStatus := 0
  icLevel := 0
  icEoi := 0
  tmrState := .reset
  tmrPreload := 0
  tmrCounter := 0
  extIo := cfg.extIo.map (fun r => (r.addr, r.resetValue))
  stepError := none

/-- The machine right after reset, with the default parameters of 00_scope R6 (DESIGN CHOICE, unsafe for other parameters, log 2). -/
def State.reset : State := powerOn Config.standard

end Sys2Proof.Machine
end

