-- ==== Sys2Proof/Machine/Flags.lean ====
section
/-! DEFINITION. The status register's named bits (10_state R42, R43), the ALU with its carry and zero (40_alu), and SetFlags. -/

namespace Sys2Proof.Machine

/-! ### Named bits of SR -/

/-- SR.HALT, bit 0 (10_state R42). -/
def State.halted (s : State) : Bool := s.sr.getLsbD 0

/-- SR.FAULT, bit 1 (10_state R42). -/
def State.faulted (s : State) : Bool := s.sr.getLsbD 1

/-- SR.ZERO, bit 2 (10_state R42). -/
def State.zero (s : State) : Bool := s.sr.getLsbD 2

/-- SR.CARRY, bit 3 (10_state R42). -/
def State.carry (s : State) : Bool := s.sr.getLsbD 3

/-- SR.IRQMASK, bit 4: 1 accepts interrupts (10_state R42, R47). -/
def State.irqEnabled (s : State) : Bool := s.sr.getLsbD 4

/-- SR.SUPERVISOR, bit 15 (10_state R42, R48). -/
def State.supervisor (s : State) : Bool := s.sr.getLsbD 15

/-- `SR.HALT <- v`. -/
def State.setHalted (s : State) (v : Bool) : State := { s with sr := setBit s.sr 0 v }

/-- `SR.FAULT <- v`. -/
def State.setFaulted (s : State) (v : Bool) : State := { s with sr := setBit s.sr 1 v }

/-- `SR.IRQMASK <- v`. -/
def State.setIrqEnabled (s : State) (v : Bool) : State := { s with sr := setBit s.sr 4 v }

/-- `SR.SUPERVISOR <- v`. -/
def State.setSupervisor (s : State) (v : Bool) : State := { s with sr := setBit s.sr 15 v }

/-- `SetFlags(c, z)`: `SR.CARRY <- c; SR.ZERO <- z` (40_alu R173). -/
def State.setFlags (s : State) (c z : Bool) : State := { s with sr := setBit (setBit s.sr 3 c) 2 z }

/-! ### The ALU -/

/-- What an ALU operation returns: `(result, carry, zero)` (40_alu R160). -/
structure AluResult (n : Nat) where
  result : BitVec n
  carry  : Bool
  zero   : Bool
  deriving DecidableEq, Repr

/-- `Norm_N(raw)` (40_alu R161). -/
def norm (n : Nat) (raw : Int) : AluResult n where
  result := BitVec.ofInt n raw
  carry := decide (raw < 0) || decide ((2 : Int) ^ n ≤ raw)
  zero := decide (BitVec.ofInt n raw = 0#n)

/-- `ALU_add_N(a, b) = Norm_N(a + b)` (40_alu R162). -/
def aluAdd {n : Nat} (x y : BitVec n) : AluResult n := norm n ((x.toNat : Int) + (y.toNat : Int))

/-- `ALU_sub_N(a, b) = Norm_N(a - b)` (40_alu R163). -/
def aluSub {n : Nat} (x y : BitVec n) : AluResult n := norm n ((x.toNat : Int) - (y.toNat : Int))

/-- `ALU_mul_N(a, b) = Norm_N(a * b)` (40_alu R164). -/
def aluMul {n : Nat} (x y : BitVec n) : AluResult n := norm n ((x.toNat : Int) * (y.toNat : Int))

/-- `ALU_div_N(a, b) = Norm_N(a div b)` for `b != 0` (40_alu R165); no result for `b = 0` (R172). -/
def aluDiv {n : Nat} (x y : BitVec n) : Option (AluResult n) :=
  if y.toNat = 0 then none else some (norm n ((x.toNat / y.toNat : Nat) : Int))

/-- `ALU_and_N(a, b) = Norm_N(a AND b)` (40_alu R166). -/
def aluAnd {n : Nat} (x y : BitVec n) : AluResult n := norm n ((x.toNat &&& y.toNat : Nat) : Int)

/-- `ALU_or_N(a, b) = Norm_N(a OR b)` (40_alu R167). -/
def aluOr {n : Nat} (x y : BitVec n) : AluResult n := norm n ((x.toNat ||| y.toNat : Nat) : Int)

/-- `ALU_xor_N(a, b) = Norm_N(a XOR b)` (40_alu R168). -/
def aluXor {n : Nat} (x y : BitVec n) : AluResult n := norm n ((x.toNat ^^^ y.toNat : Nat) : Int)

/-- `ALU_not_N(a) = Norm_N((2^N - 1) - a)` (40_alu R169). -/
def aluNot {n : Nat} (x : BitVec n) : AluResult n := norm n (((2 : Int) ^ n - 1) - (x.toNat : Int))

/-- `ALU_shl_N(a, n) = Norm_N(a * 2^n)`; the count is the whole operand, not reduced modulo the width (40_alu R170). A count past the width
shifts everything out, as a count of the width does, so the power is cut there to stay small: `aluShl_eq_norm` proves it is R170's formula. -/
def aluShl {n : Nat} (x count : BitVec n) : AluResult n := norm n ((x.toNat * 2 ^ min count.toNat n : Nat) : Int)

/-- `ALU_shr_N(a, n) = Norm_N(a div 2^n)`, the count as for `aluShl` (40_alu R171): `aluShr_eq_norm` proves it is R171's formula. -/
def aluShr {n : Nat} (x count : BitVec n) : AluResult n := norm n ((x.toNat / 2 ^ min count.toNat n : Nat) : Int)

end Sys2Proof.Machine
end

