-- ==== Sys2Proof/Machine/Memory.lean ====
section
/-! DEFINITION. Memory as data: reading and writing one cell, the canonical form, and the list that holds the `EXT_IO` values. -/

namespace Sys2Proof.Machine

/-- What an address that is not listed holds: the reset contents of memory (10_state R61). -/
def unlistedByte : Byte := 0x00

/-- The byte at an address. -/
def Memory.read : Memory → Nat → Byte
  | [], _ => unlistedByte
  | (k, v) :: m, n => if k = n then v else Memory.read m n

/-- Memory without an entry for the address. -/
def Memory.erase : Memory → Nat → Memory
  | [], _ => []
  | (k, v) :: m, n => if k = n then Memory.erase m n else (k, v) :: Memory.erase m n

/-- Memory with an entry put before the first larger address. -/
def Memory.insert : Memory → Nat → Byte → Memory
  | [], n, w => [(n, w)]
  | (k, v) :: m, n, w => if n < k then (n, w) :: (k, v) :: m else (k, v) :: Memory.insert m n w

/-- The byte at an address becomes `w`; writing what an unlisted address holds removes the entry, so equal memories are equal lists. -/
def Memory.write (m : Memory) (n : Nat) (w : Byte) : Memory :=
  if w = unlistedByte then Memory.erase m n else Memory.insert (Memory.erase m n) n w

/-- Addresses rise strictly from `lo` on, stay below `top`, and no entry equals what an unlisted address holds. -/
def Memory.wfFrom (top : Nat) : Nat → Memory → Bool
  | _, [] => true
  | lo, (k, v) :: m => decide (lo ≤ k) && decide (k < top) && decide (v ≠ unlistedByte) && Memory.wfFrom top (k + 1) m

/-- The canonical form of a memory of `top` cells. -/
def Memory.wf (top : Nat) (m : Memory) : Bool := Memory.wfFrom top 0 m

/-- The value held for an I/O address, if one is. -/
def extLookup : List (Word × Word) → Word → Option Word
  | [], _ => none
  | (k, v) :: l, x => if k = x then some v else extLookup l x

/-- The value held for an I/O address becomes `w`; the list of addresses stays as it is. -/
def extStore : List (Word × Word) → Word → Word → List (Word × Word)
  | [], _, _ => []
  | (k, v) :: l, x, w => (if k = x then (k, w) else (k, v)) :: extStore l x w

end Sys2Proof.Machine
end

