-- ==== Sys2Proof/Machine/Ops.lean ====
section
/-! DEFINITION. The named operations over registers, memory and the stack, fetching, taking an exception, and the trap return. -/

namespace Sys2Proof.Machine

/-! ### Registers -/

/-- `SP`: SSP in supervisor mode, USP in user mode (10_state R36). -/
def State.sp (s : State) : Word := if s.supervisor then s.ssp else s.usp

/-- `SP <- v` (10_state R36). -/
def State.setSp (s : State) (v : Word) : State :=
  if s.supervisor then { s with ssp := v } else { s with usp := v }

/-- `x[i]` for a 16-bit register index (10_state R38). A rule reads `x[i]` only after the class check, so the value for an index outside
the class is never used. -/
def State.reg16 (s : State) (i : RegIdx) : Word :=
  match i.toNat with
  | 0 => s.a
  | 1 => s.b
  | 2 => s.c
  | 3 => s.d
  | _ => s.sp

/-- `x[i] <- v` for a 16-bit register index (10_state R39). -/
def State.setReg16 (s : State) (i : RegIdx) (v : Word) : State :=
  match i.toNat with
  | 0 => { s with a := v }
  | 1 => { s with b := v }
  | 2 => { s with c := v }
  | 3 => { s with d := v }
  | _ => s.setSp v

/-- `x[i]` for a half-register index (10_state R32, R38). -/
def State.reg8 (s : State) (i : RegIdx) : Byte :=
  match i.toNat with
  | 9 => hiByte s.a
  | 10 => loByte s.a
  | 11 => hiByte s.b
  | 12 => loByte s.b
  | 13 => hiByte s.c
  | 14 => loByte s.c
  | 15 => hiByte s.d
  | _ => loByte s.d

/-- `x[i] <- v` for a half-register index: the other half of the parent stays (10_state R32, R39). -/
def State.setReg8 (s : State) (i : RegIdx) (v : Byte) : State :=
  match i.toNat with
  | 9 => { s with a := withHiByte s.a v }
  | 10 => { s with a := withLoByte s.a v }
  | 11 => { s with b := withHiByte s.b v }
  | 12 => { s with b := withLoByte s.b v }
  | 13 => { s with c := withHiByte s.c v }
  | 14 => { s with c := withLoByte s.c v }
  | 15 => { s with d := withHiByte s.d v }
  | _ => { s with d := withLoByte s.d v }

/-- `IP <- (IP + size) mod 65536` (10_state R41). -/
def State.advance (s : State) (size : Nat) : State := { s with ip := s.ip + BitVec.ofNat 16 size }

/-- "if not IsReg16(i): raise IllegalInstruction" (30_encoding R126). -/
def requireReg16 (i : RegIdx) : Except Exc Unit := if isReg16 i then .ok () else .error .illegalInstruction

/-- "if not IsReg8(i): raise IllegalInstruction" (30_encoding R127). -/
def requireReg8 (i : RegIdx) : Except Exc Unit := if isReg8 i then .ok () else .error .illegalInstruction

/-- "if SR.SUPERVISOR = 0: raise IllegalInstruction" (46_system R380). -/
def requireSupervisor (s : State) : Except Exc Unit := if s.supervisor then .ok () else .error .illegalInstruction

/-! ### Memory -/

/-- `InBounds(a)` (20_memory R81). -/
def State.inBounds (s : State) (x : Int) : Bool := decide (0 ≤ x) && decide (x < (s.cfg.memSize : Int))

/-- `Perm(a)`: read-only in a read-only region, read-write everywhere else (20_memory R82). -/
def Config.permAt (c : Config) (x : Int) : Perm :=
  if c.regions.any (fun r => decide (r.perm = .ro) && decide ((r.start : Int) ≤ x) && decide (x ≤ (r.stop : Int)))
  then .ro else .rw

/-- `byte(a)`: the byte of memory at an address in bounds. -/
def State.byteAt (s : State) (x : Int) : Byte := s.mem.read x.toNat

/-- The byte at an address in bounds becomes `v`, whatever its permission. -/
def State.poke (s : State) (x : Int) (v : Byte) : State := { s with mem := s.mem.write x.toNat v }

/-- `MemRead(a, 1)` (20_memory R84). -/
def memRead8 (s : State) (x : Int) : Except MemError Byte :=
  if s.inBounds x then .ok (s.byteAt x) else .error (.outOfBounds x)

/-- `MemRead(a, 2)`: big-endian, the error carries the lowest failing address (20_memory R86). -/
def memRead16 (s : State) (x : Int) : Except MemError Word :=
  if s.inBounds x then
    if s.inBounds (x + 1) then .ok (joinBytes (s.byteAt x) (s.byteAt (x + 1))) else .error (.outOfBounds (x + 1))
  else .error (.outOfBounds x)

/-- The checks of a write to one cell: bounds, then permission (20_memory R85). -/
def checkWrite (s : State) (x : Int) : Except MemError Unit :=
  if s.inBounds x then
    if Config.permAt s.cfg x = .ro then .error (.readOnly x) else .ok ()
  else .error (.outOfBounds x)

/-- `MemWrite(a, 1, v)` (20_memory R85). -/
def memWrite8 (s : State) (x : Int) (v : Byte) : Except MemError State := do
  checkWrite s x
  return s.poke x v

/-- `MemWrite(a, 2, v)`: both cells are checked before either is written (20_memory R87). -/
def memWrite16 (s : State) (x : Int) (v : Word) : Except MemError State := do
  checkWrite s x
  checkWrite s (x + 1)
  return (s.poke x (hiByte v)).poke (x + 1) (loByte v)

/-- The address a Memory error carries. -/
def MemError.address : MemError → Int
  | .outOfBounds x => x
  | .readOnly x => x

/-- A failure of a data access becomes MemoryAccessError with the failing address (20_memory R91). -/
def dataAccess {α : Type} : Except MemError α → Except Exc α
  | .ok v => .ok v
  | .error e => .error (.memoryAccess e.address)

/-- A failure inside Push or Pop becomes StackAccessError, with no address (20_memory R91, R97). -/
def stackAccess {α : Type} : Except MemError α → Except Exc α
  | .ok v => .ok v
  | .error _ => .error .stackAccess

/-- `EA(w)`: base register plus signed offset, an integer that is not wrapped (30_encoding R128). -/
def effectiveAddress (s : State) (m : RegAddr) : Except Exc Int := do
  requireReg16 m.base
  return ((s.reg16 m.base).toNat : Int) + sext8 m.offset

/-! ### The stack -/

/-- `Push(2, v)` (20_memory R93). -/
def push16 (s : State) (v : Word) : Except Exc State := do
  let t ← stackAccess (memWrite16 s ((s.sp.toNat : Int) - 1) v)
  return t.setSp (wordOfInt ((s.sp.toNat : Int) - 2))

/-- `Push(1, v)` (20_memory R94). -/
def push8 (s : State) (v : Byte) : Except Exc State := do
  let t ← stackAccess (memWrite8 s (s.sp.toNat : Int) v)
  return t.setSp (wordOfInt ((s.sp.toNat : Int) - 1))

/-- `Pop(2)`: the word and the state with SP moved (20_memory R95). -/
def pop16 (s : State) : Except Exc (Word × State) := do
  let v ← stackAccess (memRead16 s ((s.sp.toNat : Int) + 1))
  return (v, s.setSp (wordOfInt ((s.sp.toNat : Int) + 2)))

/-- `Pop(1)`: the byte and the state with SP moved (20_memory R96). -/
def pop8 (s : State) : Except Exc (Byte × State) := do
  let v ← stackAccess (memRead8 s ((s.sp.toNat : Int) + 1))
  return (v, s.setSp (wordOfInt ((s.sp.toNat : Int) + 1)))

/-- Push the words in order. -/
def pushAll : List Word → State → Except Exc State
  | [], s => .ok s
  | w :: ws, s => do
    let t ← push16 s w
    pushAll ws t

/-! ### Taking an exception, and returning from a trap -/

/-- `Enter(words, vector)`: supervisor mode, the words pushed on the supervisor stack, IP at the vector. `none` when a push fails: the entry is
all-or-nothing (60_exceptions R486). -/
def enterTrap (words : List Word) (vector : Word) (s : State) : Option State :=
  match pushAll words (s.setSupervisor true) with
  | .ok t => some { t with ip := vector }
  | .error _ => none

/-- The machine goes to FAULT: `SR.FAULT <- 1`, nothing else changes, and the error is reported (60_exceptions R491, R492). -/
def goToFault (e : Exc) (s : State) : State := { s.setFaulted true with stepError := some e }

/-- No error to report: what an instruction that completes and a trap entry leave (60_exceptions R475; DESIGN CHOICE, safe, log 4). -/
def State.clearError (s : State) : State := { s with stepError := none }

/-- The type code of an exception (60_exceptions R470). -/
def Exc.code : Exc → Word
  | .divideByZero => 0
  | .instructionFetch => 1
  | .memoryAccess _ => 2
  | .unknownOpcode => 3
  | .illegalInstruction => 4
  | .stackAccess => 5

/-- The words of an exception frame in the order they are pushed: SR, USP, IP, the address of a MemoryAccessError modulo 65536, the type
code (60_exceptions R471, R489). -/
def exceptionWords (e : Exc) (s : State) : List Word :=
  match e with
  | .memoryAccess x => [s.sr, s.usp, s.ip, wordOfInt x, e.code]
  | _ => [s.sr, s.usp, s.ip, e.code]

/-- Taking an exception: in user mode the frame and the exception vector (60_exceptions R489), in supervisor mode FAULT (R491), and FAULT too when the
frame cannot be pushed (R492). `s` is the state before the instruction that raised it (R472). -/
def takeException (e : Exc) (s : State) : State :=
  if s.supervisor then goToFault e s
  else
    match enterTrap (exceptionWords e s) excVector s with
    | some t => t.clearError
    | none => goToFault e s

/-- `SvcEntry()`, from user mode: SR, USP, IP + 1 pushed, IP at the system-call vector; FAULT with StackAccessError when the frame cannot be
pushed (60_exceptions R488, R492). -/
def svcEntry (s : State) : State :=
  match enterTrap [s.sr, s.usp, s.ip + 1] syscallVector s with
  | some t => t.clearError
  | none => goToFault .stackAccess s

/-- `InterruptEntry()`: HALT cleared, then SR, SP and IP pushed, IP at the interrupt vector, IRQMASK cleared; FAULT with
StackAccessError, and nothing else changed, when the frame cannot be pushed (60_exceptions R487, R492). -/
def interruptEntry (s : State) : State :=
  let awake := s.setHalted false
  match enterTrap [awake.sr, awake.sp, awake.ip] irqVector awake with
  | some t => t.setIrqEnabled false
  | none => goToFault .stackAccess s

/-- The trap return of IRET: IP, SP and SR popped from the supervisor stack, SR restored whole, the SP word written to the stack pointer the
restored SR.SUPERVISOR names (46_system R384, 60_exceptions R495). -/
def returnFromTrap (s : State) : Except Exc State := do
  let (ip, s₁) ← pop16 s
  let (sp, s₂) ← pop16 s₁
  let (sr, s₃) ← pop16 s₂
  let t : State := { s₃ with sr := sr, ip := ip }
  return t.setSp sp

/-- How an instruction ends: its writes stand, or the exception it raises is taken from the state before it (60_exceptions R472, R475). -/
def conclude (s : State) (r : Except Exc State) : Host.Outcome State Fault Refusal :=
  match r with
  | .ok t => .next t.clearError
  | .error e => .next (takeException e s)

/-! ### Fetching -/

/-- The bytes memory holds at `x`, `x + 1`, ..., at most `n` of them, as far as memory goes: the fetch cursor is not wrapped and
permissions are ignored (20_memory R90). -/
def streamFrom (s : State) : Nat → Nat → List Byte
  | _, 0 => []
  | x, n + 1 => if x < s.cfg.memSize then s.mem.read x :: streamFrom s (x + 1) n else []

/-- The instruction stream at IP: five bytes, the longest instruction, or as many as memory has (30_encoding R121, R124; DEDUCED, safe,
log 8). -/
def fetchWindow (s : State) : List Byte := streamFrom s s.ip.toNat 5

/-- The exception the decode procedure raises (30_encoding R124). -/
def DecodeError.exc : DecodeError → Exc
  | .fetch => .instructionFetch
  | .unknownOpcode => .unknownOpcode
  | .illegalBase => .illegalInstruction

/-- Fetch and decode at IP (30_encoding R124). -/
def fetchDecode (s : State) : Except Exc Instr :=
  match decode (fetchWindow s) with
  | .ok (i, _) => .ok i
  | .error e => .error (DecodeError.exc e)

/-- Put the bytes in memory from `x` on, ignoring permissions, as far as memory goes (20_memory R105). -/
def pokeAll : List Byte → Nat → State → State
  | [], _, s => s
  | v :: vs, x, s => pokeAll vs (x + 1) (if x < s.cfg.memSize then s.poke (x : Int) v else s)

end Sys2Proof.Machine
end

