-- ==== Sys2Proof/Machine/Devices.lean ====
section
/-! DEFINITION. The I/O registers, the interrupt controller and the timer, and how a step ends: the tick and the interrupt check
(60_exceptions R475, R480, R497 to R504, R520 to R523). -/

namespace Sys2Proof.Machine

/-! ### I/O registers -/

/-- `irq_in = ((ic_status AND ic_mask) != 0)` (10_state R54). -/
def State.irqIn (s : State) : Bool := decide (s.icStatus &&& s.icMask ≠ 0)

/-- The `EXT_IO` register at an I/O address, if the parameters declare one (10_state R51). -/
def Config.extIoAt (c : Config) (x : Word) : Option ExtIoReg := c.extIo.find? (fun r => decide (r.addr = x))

/-- `IORead(a)`: the register's value, or nothing where no register exists (20_memory R100, 60_exceptions R497; log 11). -/
def ioRead (s : State) (x : Word) : Option Word :=
  if x = ioIrqMask then some s.icMask
  else if x = ioIrqStatus then some s.icStatus
  else if x = ioIrqEoi then some s.icEoi
  else if x = s.cfg.ioTmrPreload then some s.tmrPreload
  else if x = s.cfg.ioTmrCounter then some s.tmrCounter
  else match Config.extIoAt s.cfg x with
    | some r => some ((extLookup s.extIo x).getD r.resetValue)
    | none => none

/-- A write to IO.IRQEOI: the named pending bits are cleared, and those whose level is still asserted come back (60_exceptions R500). -/
def acknowledge (s : State) (v : Word) : State :=
  { s with icEoi := v, icStatus := (s.icStatus &&& ~~~v) ||| s.icLevel }

/-- A write to TMRPRELOAD: preload and counter take the value and the timer is PRELOADED (60_exceptions R521). -/
def preloadTimer (s : State) (v : Word) : State :=
  { s with tmrPreload := v, tmrCounter := v, tmrState := .preloaded }

/-- `IOWrite(a, v)`: the owner reacts at once; nothing where no register exists or the register is read-only (20_memory R101,
60_exceptions R498 to R500, R521, R522). -/
def ioWrite (s : State) (x v : Word) : Option State :=
  if x = ioIrqMask then some { s with icMask := v }
  else if x = ioIrqStatus then none
  else if x = ioIrqEoi then some (acknowledge s v)
  else if x = s.cfg.ioTmrPreload then some (preloadTimer s v)
  else if x = s.cfg.ioTmrCounter then none
  else match Config.extIoAt s.cfg x with
    | some r => if r.perm = .ro then none else some { s with extIo := extStore s.extIo x v }
    | none => none

/-- A failed I/O access becomes MemoryAccessError with the I/O address (20_memory R102). -/
def ioAccess {α : Type} (x : Word) : Option α → Except Exc α
  | some v => .ok v
  | none => .error (.memoryAccess (x.toNat : Int))

/-! ### The timer and the interrupt check -/

/-- `TimerTick()` (60_exceptions R523). A depletion sets line 1's pending bit in every state. So it does in an ended run, where R580's closing
sentence would leave the bit alone (DEDUCED, log 12), and after an IRET that restored FAULT = 1, where R501 with R493 would refuse the
timer's trigger (DEDUCED, log 20). -/
def timerTick (s : State) : State :=
  match s.tmrState with
  | .reset => s
  | .preloaded => { s with tmrState := .running }
  | .running =>
    if s.tmrCounter - 1 = 0 then
      { s with
        tmrCounter := 0
        tmrState := .depleted
        icStatus := setBit s.icStatus timerIrqLine true }
    else { s with tmrCounter := s.tmrCounter - 1 }
  | .depleted => { s with tmrCounter := s.tmrPreload, tmrState := .running }

/-- `Tick()` is the timer's tick and nothing else (60_exceptions R520). -/
def tick (s : State) : State := timerTick s

/-- `RecogniseInterrupt()` (60_exceptions R480). -/
def recogniseInterrupt (s : State) : State :=
  if s.faulted then s
  else if s.irqIn && s.irqEnabled then interruptEntry s
  else s

/-! ### The two ends of a step -/

/-- A step of a halted control unit: one tick, then the interrupt check (60_exceptions R475, step 2), in an ended run too (R483; DEDUCED,
log 12). -/
def haltedStep (s : State) : State := recogniseInterrupt (tick s.clearError)

/-- What follows the instruction or the trap entry of a step: a tick and the interrupt check, unless the machine went to FAULT
(60_exceptions R475, steps 3 to 5). An IRET that restores FAULT = 1 has completed, so its step ticks (DEDUCED, log 20). -/
def finishStep : Host.Outcome State Fault Refusal → Host.Outcome State Fault Refusal
  | .next t => if t.stepError.isSome then .next t else .next (recogniseInterrupt (tick t))
  | .fault e => .fault e
  | .refused e => .refused e

end Sys2Proof.Machine
end

