-- ==== Sys2Proof/Machine/Operands.lean ====
section
/-! DEFINITION. The operand forms: where a source operand's value, a memory operand's address and a jump target come from (30_encoding
R125 to R130). -/

namespace Sys2Proof.Machine

/-- A memory operand: a direct address (30_encoding R129) or a base register with an offset (R128). -/
inductive MemOperand where
  | direct (a : Word)
  | indexed (m : RegAddr)
  deriving DecidableEq, Repr

/-- The address of a memory operand, an integer (20_memory R81, 30_encoding R128, R129). -/
def MemOperand.address (s : State) : MemOperand → Except Exc Int
  | .direct a => .ok (a.toNat : Int)
  | .indexed m => effectiveAddress s m

/-- A source operand of two bytes (30_encoding R130). -/
inductive Src16 where
  | reg (r : RegIdx)
  | mem (o : MemOperand)
  | imm (v : Word)
  deriving DecidableEq, Repr

/-- A source operand of one byte (30_encoding R130). -/
inductive Src8 where
  | reg (r : RegIdx)
  | mem (o : MemOperand)
  | imm (v : Byte)
  deriving DecidableEq, Repr

/-- The word at a memory operand; a failure is MemoryAccessError with the failing address (30_encoding R130, 20_memory R91). -/
def MemOperand.load16 (s : State) (o : MemOperand) : Except Exc Word := do
  let ea ← o.address s
  dataAccess (memRead16 s ea)

/-- The byte at a memory operand (30_encoding R130, 20_memory R91). -/
def MemOperand.load8 (s : State) (o : MemOperand) : Except Exc Byte := do
  let ea ← o.address s
  dataAccess (memRead8 s ea)

/-- Store a word at a memory operand (20_memory R87, R91). -/
def MemOperand.store16 (s : State) (o : MemOperand) (v : Word) : Except Exc State := do
  let ea ← o.address s
  dataAccess (memWrite16 s ea v)

/-- Store a byte at a memory operand (20_memory R85, R91). -/
def MemOperand.store8 (s : State) (o : MemOperand) (v : Byte) : Except Exc State := do
  let ea ← o.address s
  dataAccess (memWrite8 s ea v)

/-- The value of a source operand of two bytes (30_encoding R130). -/
def Src16.value (s : State) : Src16 → Except Exc Word
  | .reg r => do
    requireReg16 r
    return s.reg16 r
  | .mem o => o.load16 s
  | .imm v => .ok v

/-- The value of a source operand of one byte (30_encoding R130). -/
def Src8.value (s : State) : Src8 → Except Exc Byte
  | .reg r => do
    requireReg8 r
    return s.reg8 r
  | .mem o => o.load8 s
  | .imm v => .ok v

/-- Where a jump or a CALL goes: an absolute address, or a register plus an offset (44_control_transfer R340). -/
inductive Target where
  | absolute (v : Word)
  | indexed (m : RegAddr)
  deriving DecidableEq, Repr

/-- The target address: the immediate, or `ea mod 65536`; no memory is read (44_control_transfer R340). -/
def Target.resolve (s : State) : Target → Except Exc Word
  | .absolute v => .ok v
  | .indexed m => do
    let ea ← effectiveAddress s m
    return wordOfInt ea

end Sys2Proof.Machine
end

