-- ==== Sys2Proof/Machine/Handlers.lean ====
section
/-! DEFINITION. The shared bodies of the instructions: each gives the state after the instruction, or the exception it raises, its
checks in the order of 60_exceptions R473. `size` is the encoded length of the instruction. -/

namespace Sys2Proof.Machine

/-! ### Data movement (41_data_movement) -/

/-- MOV to a 16-bit register. -/
def moveToReg16 (size : Nat) (d : RegIdx) (src : Src16) (s : State) : Except Exc State := do
  requireReg16 d
  let v ← src.value s
  return (s.setReg16 d v).advance size

/-- MOVB to a half-register. -/
def moveToReg8 (size : Nat) (d : RegIdx) (src : Src8) (s : State) : Except Exc State := do
  requireReg8 d
  let v ← src.value s
  return (s.setReg8 d v).advance size

/-- MOV to memory. -/
def moveToMem16 (size : Nat) (o : MemOperand) (src : Src16) (s : State) : Except Exc State := do
  let v ← src.value s
  let t ← o.store16 s v
  return t.advance size

/-- MOVB to memory. -/
def moveToMem8 (size : Nat) (o : MemOperand) (src : Src8) (s : State) : Except Exc State := do
  let v ← src.value s
  let t ← o.store8 s v
  return t.advance size

/-! ### The ALU instructions (42_arithmetic, 43_logic_shift) -/

/-- `x[d], flags <- op(x[d], source)`, 16 bits. -/
def aluReg16 (op : Word → Word → AluResult 16) (size : Nat) (d : RegIdx) (src : Src16) (s : State) :
    Except Exc State := do
  requireReg16 d
  let y ← src.value s
  let r := op (s.reg16 d) y
  return ((s.setReg16 d r.result).setFlags r.carry r.zero).advance size

/-- `x[d], flags <- op(x[d], source)`, 8 bits. -/
def aluReg8 (op : Byte → Byte → AluResult 8) (size : Nat) (d : RegIdx) (src : Src8) (s : State) :
    Except Exc State := do
  requireReg8 d
  let y ← src.value s
  let r := op (s.reg8 d) y
  return ((s.setReg8 d r.result).setFlags r.carry r.zero).advance size

/-- `flags <- x[d] - source`, 16 bits: a comparison keeps no result. -/
def compare16 (size : Nat) (d : RegIdx) (src : Src16) (s : State) : Except Exc State := do
  requireReg16 d
  let y ← src.value s
  let r := aluSub (s.reg16 d) y
  return (s.setFlags r.carry r.zero).advance size

/-- `flags <- x[d] - source`, 8 bits. -/
def compare8 (size : Nat) (d : RegIdx) (src : Src8) (s : State) : Except Exc State := do
  requireReg8 d
  let y ← src.value s
  let r := aluSub (s.reg8 d) y
  return (s.setFlags r.carry r.zero).advance size

/-- `x[r], flags <- op(x[r])`, 16 bits: INC, DEC, NOT. -/
def unary16 (op : Word → AluResult 16) (r : RegIdx) (s : State) : Except Exc State := do
  requireReg16 r
  let q := op (s.reg16 r)
  return ((s.setReg16 r q.result).setFlags q.carry q.zero).advance 2

/-- `x[r], flags <- op(x[r])`, 8 bits: INCB, DECB, NOTB. -/
def unary8 (op : Byte → AluResult 8) (r : RegIdx) (s : State) : Except Exc State := do
  requireReg8 r
  let q := op (s.reg8 r)
  return ((s.setReg8 r q.result).setFlags q.carry q.zero).advance 2

/-- MUL: `A, flags <- A * source`. -/
def multiply16 (size : Nat) (src : Src16) (s : State) : Except Exc State := do
  let y ← src.value s
  let q := aluMul s.a y
  return ({ s with a := q.result }.setFlags q.carry q.zero).advance size

/-- MULB: `AL, flags <- AL * source`. -/
def multiply8 (size : Nat) (src : Src8) (s : State) : Except Exc State := do
  let y ← src.value s
  let q := aluMul (loByte s.a) y
  return ({ s with a := withLoByte s.a q.result }.setFlags q.carry q.zero).advance size

/-- A division by zero raises DivideByZero (40_alu R172). -/
def divided {n : Nat} : Option (AluResult n) → Except Exc (AluResult n)
  | some q => .ok q
  | none => .error .divideByZero

/-- DIV: `A, flags <- A div source`. -/
def divide16 (size : Nat) (src : Src16) (s : State) : Except Exc State := do
  let y ← src.value s
  let q ← divided (aluDiv s.a y)
  return ({ s with a := q.result }.setFlags q.carry q.zero).advance size

/-- DIVB: `AL, flags <- AL div source`. -/
def divide8 (size : Nat) (src : Src8) (s : State) : Except Exc State := do
  let y ← src.value s
  let q ← divided (aluDiv (loByte s.a) y)
  return ({ s with a := withLoByte s.a q.result }.setFlags q.carry q.zero).advance size

/-! ### Control transfer (44_control_transfer) -/

/-- JMP and the conditional jumps: the target is resolved, and its base register checked, whether or not the jump is taken. -/
def jumpIf (taken : Bool) (target : Target) (s : State) : Except Exc State := do
  let v ← target.resolve s
  return if taken then { s with ip := v } else s.advance 3

/-- CALL: the target is resolved before the return address is pushed. -/
def callTo (target : Target) (s : State) : Except Exc State := do
  let v ← target.resolve s
  let t ← push16 s (s.ip + 3)
  return { t with ip := v }

/-- RET: `IP <- Pop(2)`. -/
def returnFromCall (s : State) : Except Exc State := do
  let (v, t) ← pop16 s
  return { t with ip := v }

/-! ### Stack (45_stack) -/

/-- PUSH: the source is read before the push. -/
def pushWord (size : Nat) (src : Src16) (s : State) : Except Exc State := do
  let v ← src.value s
  let t ← push16 s v
  return t.advance size

/-- PUSHB: the source is read before the push. -/
def pushByte (size : Nat) (src : Src8) (s : State) : Except Exc State := do
  let v ← src.value s
  let t ← push8 s v
  return t.advance size

/-- POP: SP rises, then the register is written. -/
def popWord (r : RegIdx) (s : State) : Except Exc State := do
  requireReg16 r
  let (v, t) ← pop16 s
  return (t.setReg16 r v).advance 2

/-- POPB: SP rises, then the half-register is written. -/
def popByte (r : RegIdx) (s : State) : Except Exc State := do
  requireReg8 r
  let (v, t) ← pop8 s
  return (t.setReg8 r v).advance 2

/-! ### System (46_system) -/

/-- HLT: not privileged; IP moves past it. -/
def haltSelf (s : State) : Except Exc State := .ok ((s.setHalted true).advance 1)

/-- CLI and STI: SR.IRQMASK takes the value; privileged. -/
def writeIrqMask (v : Bool) (s : State) : Except Exc State := do
  requireSupervisor s
  return (s.setIrqEnabled v).advance 1

/-- IRET: privileged. -/
def trapReturn (s : State) : Except Exc State := do
  requireSupervisor s
  returnFromTrap s

/-- IN: `A <- IORead(source)`; privileged. -/
def input (size : Nat) (src : Src16) (s : State) : Except Exc State := do
  requireSupervisor s
  let io ← src.value s
  let v ← ioAccess io (ioRead s io)
  return { s with a := v }.advance size

/-- OUT: `IOWrite(source, A)`; privileged. -/
def output (size : Nat) (src : Src16) (s : State) : Except Exc State := do
  requireSupervisor s
  let io ← src.value s
  let t ← ioAccess io (ioWrite s io s.a)
  return t.advance size

/-- SVC: legal in user mode alone, where it takes the system-call trap (46_system R385). -/
def supervisorCall (s : State) : State :=
  if s.supervisor then takeException .illegalInstruction s else svcEntry s

end Sys2Proof.Machine
end

