-- ==== Sys2Proof/Machine/Arithmetic.lean ====
section
/-! DEFINITION. The meanings of ADD, SUB, INC, DEC, CMP, MUL, DIV and their byte forms (42_arithmetic), one definition per row of the opcode map. -/

namespace Sys2Proof.Machine

/-- `ADD reg16, reg16` (42_arithmetic R232). -/
def execAddR16R16 (d : RegIdx) (r : RegIdx) (s : State) : Host.Outcome State Fault Refusal :=
  conclude s (aluReg16 aluAdd 3 d (.reg r) s)

/-- `ADD reg16, [reg16±off]` (42_arithmetic R233). -/
def execAddR16Ra (d : RegIdx) (m : RegAddr) (s : State) : Host.Outcome State Fault Refusal :=
  conclude s (aluReg16 aluAdd 4 d (.mem (.indexed m)) s)

/-- `ADD reg16, [addr]` (42_arithmetic R234). -/
def execAddR16Ad (d : RegIdx) (a : Word) (s : State) : Host.Outcome State Fault Refusal :=
  conclude s (aluReg16 aluAdd 4 d (.mem (.direct a)) s)

/-- `ADD reg16, word` (42_arithmetic R235). -/
def execAddR16W (d : RegIdx) (v : Word) (s : State) : Host.Outcome State Fault Refusal :=
  conclude s (aluReg16 aluAdd 4 d (.imm v) s)

/-- `ADDB reg8, reg8` (42_arithmetic R236). -/
def execAddbR8R8 (d : RegIdx) (r : RegIdx) (s : State) : Host.Outcome State Fault Refusal :=
  conclude s (aluReg8 aluAdd 3 d (.reg r) s)

/-- `ADDB reg8, [reg16±off]` (42_arithmetic R237). -/
def execAddbR8Ra (d : RegIdx) (m : RegAddr) (s : State) : Host.Outcome State Fault Refusal :=
  conclude s (aluReg8 aluAdd 4 d (.mem (.indexed m)) s)

/-- `ADDB reg8, [addr]` (42_arithmetic R238). -/
def execAddbR8Ad (d : RegIdx) (a : Word) (s : State) : Host.Outcome State Fault Refusal :=
  conclude s (aluReg8 aluAdd 4 d (.mem (.direct a)) s)

/-- `ADDB reg8, byte` (42_arithmetic R239). -/
def execAddbR8B (d : RegIdx) (v : Byte) (s : State) : Host.Outcome State Fault Refusal :=
  conclude s (aluReg8 aluAdd 3 d (.imm v) s)

/-- `SUB reg16, reg16` (42_arithmetic R240). -/
def execSubR16R16 (d : RegIdx) (r : RegIdx) (s : State) : Host.Outcome State Fault Refusal :=
  conclude s (aluReg16 aluSub 3 d (.reg r) s)

/-- `SUB reg16, [reg16±off]` (42_arithmetic R241). -/
def execSubR16Ra (d : RegIdx) (m : RegAddr) (s : State) : Host.Outcome State Fault Refusal :=
  conclude s (aluReg16 aluSub 4 d (.mem (.indexed m)) s)

/-- `SUB reg16, [addr]` (42_arithmetic R242). -/
def execSubR16Ad (d : RegIdx) (a : Word) (s : State) : Host.Outcome State Fault Refusal :=
  conclude s (aluReg16 aluSub 4 d (.mem (.direct a)) s)

/-- `SUB reg16, word` (42_arithmetic R243). -/
def execSubR16W (d : RegIdx) (v : Word) (s : State) : Host.Outcome State Fault Refusal :=
  conclude s (aluReg16 aluSub 4 d (.imm v) s)

/-- `SUBB reg8, reg8` (42_arithmetic R244). -/
def execSubbR8R8 (d : RegIdx) (r : RegIdx) (s : State) : Host.Outcome State Fault Refusal :=
  conclude s (aluReg8 aluSub 3 d (.reg r) s)

/-- `SUBB reg8, [reg16±off]` (42_arithmetic R245). -/
def execSubbR8Ra (d : RegIdx) (m : RegAddr) (s : State) : Host.Outcome State Fault Refusal :=
  conclude s (aluReg8 aluSub 4 d (.mem (.indexed m)) s)

/-- `SUBB reg8, [addr]` (42_arithmetic R246). -/
def execSubbR8Ad (d : RegIdx) (a : Word) (s : State) : Host.Outcome State Fault Refusal :=
  conclude s (aluReg8 aluSub 4 d (.mem (.direct a)) s)

/-- `SUBB reg8, byte` (42_arithmetic R247). -/
def execSubbR8B (d : RegIdx) (v : Byte) (s : State) : Host.Outcome State Fault Refusal :=
  conclude s (aluReg8 aluSub 3 d (.imm v) s)

/-- `INC reg16` (42_arithmetic R248). -/
def execIncR16 (r : RegIdx) (s : State) : Host.Outcome State Fault Refusal :=
  conclude s (unary16 (aluAdd · 1) r s)

/-- `INCB reg8` (42_arithmetic R249). -/
def execIncbR8 (r : RegIdx) (s : State) : Host.Outcome State Fault Refusal :=
  conclude s (unary8 (aluAdd · 1) r s)

/-- `DEC reg16` (42_arithmetic R250). -/
def execDecR16 (r : RegIdx) (s : State) : Host.Outcome State Fault Refusal :=
  conclude s (unary16 (aluSub · 1) r s)

/-- `DECB reg8` (42_arithmetic R251). -/
def execDecbR8 (r : RegIdx) (s : State) : Host.Outcome State Fault Refusal :=
  conclude s (unary8 (aluSub · 1) r s)

/-- `CMP reg16, reg16` (42_arithmetic R252). -/
def execCmpR16R16 (d : RegIdx) (r : RegIdx) (s : State) : Host.Outcome State Fault Refusal :=
  conclude s (compare16 3 d (.reg r) s)

/-- `CMP reg16, [reg16±off]` (42_arithmetic R253). -/
def execCmpR16Ra (d : RegIdx) (m : RegAddr) (s : State) : Host.Outcome State Fault Refusal :=
  conclude s (compare16 4 d (.mem (.indexed m)) s)

/-- `CMP reg16, [addr]` (42_arithmetic R254). -/
def execCmpR16Ad (d : RegIdx) (a : Word) (s : State) : Host.Outcome State Fault Refusal :=
  conclude s (compare16 4 d (.mem (.direct a)) s)

/-- `CMP reg16, word` (42_arithmetic R255). -/
def execCmpR16W (d : RegIdx) (v : Word) (s : State) : Host.Outcome State Fault Refusal :=
  conclude s (compare16 4 d (.imm v) s)

/-- `CMPB reg8, reg8` (42_arithmetic R256). -/
def execCmpbR8R8 (d : RegIdx) (r : RegIdx) (s : State) : Host.Outcome State Fault Refusal :=
  conclude s (compare8 3 d (.reg r) s)

/-- `CMPB reg8, [reg16±off]` (42_arithmetic R257). -/
def execCmpbR8Ra (d : RegIdx) (m : RegAddr) (s : State) : Host.Outcome State Fault Refusal :=
  conclude s (compare8 4 d (.mem (.indexed m)) s)

/-- `CMPB reg8, [addr]` (42_arithmetic R258). -/
def execCmpbR8Ad (d : RegIdx) (a : Word) (s : State) : Host.Outcome State Fault Refusal :=
  conclude s (compare8 4 d (.mem (.direct a)) s)

/-- `CMPB reg8, byte` (42_arithmetic R259). -/
def execCmpbR8B (d : RegIdx) (v : Byte) (s : State) : Host.Outcome State Fault Refusal :=
  conclude s (compare8 3 d (.imm v) s)

/-- `MUL reg16` (42_arithmetic R260). -/
def execMulR16 (r : RegIdx) (s : State) : Host.Outcome State Fault Refusal :=
  conclude s (multiply16 2 (.reg r) s)

/-- `MUL [reg16±off]` (42_arithmetic R261). -/
def execMulRa (m : RegAddr) (s : State) : Host.Outcome State Fault Refusal :=
  conclude s (multiply16 3 (.mem (.indexed m)) s)

/-- `MUL [addr]` (42_arithmetic R262). -/
def execMulAd (a : Word) (s : State) : Host.Outcome State Fault Refusal :=
  conclude s (multiply16 3 (.mem (.direct a)) s)

/-- `MUL word` (42_arithmetic R263). -/
def execMulW (v : Word) (s : State) : Host.Outcome State Fault Refusal :=
  conclude s (multiply16 3 (.imm v) s)

/-- `MULB reg8` (42_arithmetic R264). -/
def execMulbR8 (r : RegIdx) (s : State) : Host.Outcome State Fault Refusal :=
  conclude s (multiply8 2 (.reg r) s)

/-- `MULB [reg16±off]` (42_arithmetic R265). -/
def execMulbRa (m : RegAddr) (s : State) : Host.Outcome State Fault Refusal :=
  conclude s (multiply8 3 (.mem (.indexed m)) s)

/-- `MULB [addr]` (42_arithmetic R266). -/
def execMulbAd (a : Word) (s : State) : Host.Outcome State Fault Refusal :=
  conclude s (multiply8 3 (.mem (.direct a)) s)

/-- `MULB byte` (42_arithmetic R267). -/
def execMulbB (v : Byte) (s : State) : Host.Outcome State Fault Refusal :=
  conclude s (multiply8 2 (.imm v) s)

/-- `DIV reg16` (42_arithmetic R268). -/
def execDivR16 (r : RegIdx) (s : State) : Host.Outcome State Fault Refusal :=
  conclude s (divide16 2 (.reg r) s)

/-- `DIV [reg16±off]` (42_arithmetic R269). -/
def execDivRa (m : RegAddr) (s : State) : Host.Outcome State Fault Refusal :=
  conclude s (divide16 3 (.mem (.indexed m)) s)

/-- `DIV [addr]` (42_arithmetic R270). -/
def execDivAd (a : Word) (s : State) : Host.Outcome State Fault Refusal :=
  conclude s (divide16 3 (.mem (.direct a)) s)

/-- `DIV word` (42_arithmetic R271). -/
def execDivW (v : Word) (s : State) : Host.Outcome State Fault Refusal :=
  conclude s (divide16 3 (.imm v) s)

/-- `DIVB reg8` (42_arithmetic R272). -/
def execDivbR8 (r : RegIdx) (s : State) : Host.Outcome State Fault Refusal :=
  conclude s (divide8 2 (.reg r) s)

/-- `DIVB [reg16±off]` (42_arithmetic R273). -/
def execDivbRa (m : RegAddr) (s : State) : Host.Outcome State Fault Refusal :=
  conclude s (divide8 3 (.mem (.indexed m)) s)

/-- `DIVB [addr]` (42_arithmetic R274). -/
def execDivbAd (a : Word) (s : State) : Host.Outcome State Fault Refusal :=
  conclude s (divide8 3 (.mem (.direct a)) s)

/-- `DIVB byte` (42_arithmetic R275). -/
def execDivbB (v : Byte) (s : State) : Host.Outcome State Fault Refusal :=
  conclude s (divide8 2 (.imm v) s)

end Sys2Proof.Machine
end

