-- ==== Sys2Proof/Machine/Control.lean ====
section
/-! DEFINITION. The meanings of the jumps, CALL and RET (44_control_transfer), one definition per row of the opcode map. -/

namespace Sys2Proof.Machine

/-- `JMP [reg16±off]` (44_control_transfer R342). -/
def execJmpRa (m : RegAddr) (s : State) : Host.Outcome State Fault Refusal :=
  conclude s (jumpIf true (.indexed m) s)

/-- `JMP word` (44_control_transfer R343). -/
def execJmpW (v : Word) (s : State) : Host.Outcome State Fault Refusal :=
  conclude s (jumpIf true (.absolute v) s)

/-- `JC [reg16±off]` (44_control_transfer R344). -/
def execJcRa (m : RegAddr) (s : State) : Host.Outcome State Fault Refusal :=
  conclude s (jumpIf s.carry (.indexed m) s)

/-- `JC word` (44_control_transfer R345). -/
def execJcW (v : Word) (s : State) : Host.Outcome State Fault Refusal :=
  conclude s (jumpIf s.carry (.absolute v) s)

/-- `JNC [reg16±off]` (44_control_transfer R346). -/
def execJncRa (m : RegAddr) (s : State) : Host.Outcome State Fault Refusal :=
  conclude s (jumpIf (!s.carry) (.indexed m) s)

/-- `JNC word` (44_control_transfer R347). -/
def execJncW (v : Word) (s : State) : Host.Outcome State Fault Refusal :=
  conclude s (jumpIf (!s.carry) (.absolute v) s)

/-- `JZ [reg16±off]` (44_control_transfer R348). -/
def execJzRa (m : RegAddr) (s : State) : Host.Outcome State Fault Refusal :=
  conclude s (jumpIf s.zero (.indexed m) s)

/-- `JZ word` (44_control_transfer R349). -/
def execJzW (v : Word) (s : State) : Host.Outcome State Fault Refusal :=
  conclude s (jumpIf s.zero (.absolute v) s)

/-- `JNZ [reg16±off]` (44_control_transfer R350). -/
def execJnzRa (m : RegAddr) (s : State) : Host.Outcome State Fault Refusal :=
  conclude s (jumpIf (!s.zero) (.indexed m) s)

/-- `JNZ word` (44_control_transfer R351). -/
def execJnzW (v : Word) (s : State) : Host.Outcome State Fault Refusal :=
  conclude s (jumpIf (!s.zero) (.absolute v) s)

/-- `JA [reg16±off]` (44_control_transfer R352). -/
def execJaRa (m : RegAddr) (s : State) : Host.Outcome State Fault Refusal :=
  conclude s (jumpIf (!s.carry && !s.zero) (.indexed m) s)

/-- `JA word` (44_control_transfer R353). -/
def execJaW (v : Word) (s : State) : Host.Outcome State Fault Refusal :=
  conclude s (jumpIf (!s.carry && !s.zero) (.absolute v) s)

/-- `JNA [reg16±off]` (44_control_transfer R354). -/
def execJnaRa (m : RegAddr) (s : State) : Host.Outcome State Fault Refusal :=
  conclude s (jumpIf (s.carry || s.zero) (.indexed m) s)

/-- `JNA word` (44_control_transfer R355). -/
def execJnaW (v : Word) (s : State) : Host.Outcome State Fault Refusal :=
  conclude s (jumpIf (s.carry || s.zero) (.absolute v) s)

/-- `CALL [reg16±off]` (44_control_transfer R356). -/
def execCallRa (m : RegAddr) (s : State) : Host.Outcome State Fault Refusal :=
  conclude s (callTo (.indexed m) s)

/-- `CALL word` (44_control_transfer R357). -/
def execCallW (v : Word) (s : State) : Host.Outcome State Fault Refusal :=
  conclude s (callTo (.absolute v) s)

/-- `RET` (44_control_transfer R358). -/
def execRet (s : State) : Host.Outcome State Fault Refusal :=
  conclude s (returnFromCall s)

end Sys2Proof.Machine
end

