-- ==== Sys2Proof/Machine/DataMovement.lean ====
section
/-! DEFINITION. The meanings of MOV and MOVB (41_data_movement), one definition per row of the opcode map. -/

namespace Sys2Proof.Machine

/-- `MOV reg16, reg16` (41_data_movement R201). -/
def execMovR16R16 (d : RegIdx) (r : RegIdx) (s : State) : Host.Outcome State Fault Refusal :=
  conclude s (moveToReg16 3 d (.reg r) s)

/-- `MOV reg16, [addr]` (41_data_movement R202). -/
def execMovR16Ad (d : RegIdx) (a : Word) (s : State) : Host.Outcome State Fault Refusal :=
  conclude s (moveToReg16 4 d (.mem (.direct a)) s)

/-- `MOV reg16, [reg16±off]` (41_data_movement R203). -/
def execMovR16Ra (d : RegIdx) (m : RegAddr) (s : State) : Host.Outcome State Fault Refusal :=
  conclude s (moveToReg16 4 d (.mem (.indexed m)) s)

/-- `MOV [addr], reg16` (41_data_movement R204). -/
def execMovAdR16 (a : Word) (r : RegIdx) (s : State) : Host.Outcome State Fault Refusal :=
  conclude s (moveToMem16 4 (.direct a) (.reg r) s)

/-- `MOV [reg16±off], reg16` (41_data_movement R205). -/
def execMovRaR16 (m : RegAddr) (r : RegIdx) (s : State) : Host.Outcome State Fault Refusal :=
  conclude s (moveToMem16 4 (.indexed m) (.reg r) s)

/-- `MOV reg16, word` (41_data_movement R206). -/
def execMovR16W (d : RegIdx) (v : Word) (s : State) : Host.Outcome State Fault Refusal :=
  conclude s (moveToReg16 4 d (.imm v) s)

/-- `MOV [addr], word` (41_data_movement R207). -/
def execMovAdW (a : Word) (v : Word) (s : State) : Host.Outcome State Fault Refusal :=
  conclude s (moveToMem16 5 (.direct a) (.imm v) s)

/-- `MOV [reg16±off], word` (41_data_movement R208). -/
def execMovRaW (m : RegAddr) (v : Word) (s : State) : Host.Outcome State Fault Refusal :=
  conclude s (moveToMem16 5 (.indexed m) (.imm v) s)

/-- `MOVB reg8, reg8` (41_data_movement R209). -/
def execMovbR8R8 (d : RegIdx) (r : RegIdx) (s : State) : Host.Outcome State Fault Refusal :=
  conclude s (moveToReg8 3 d (.reg r) s)

/-- `MOVB reg8, [addr]` (41_data_movement R210). -/
def execMovbR8Ad (d : RegIdx) (a : Word) (s : State) : Host.Outcome State Fault Refusal :=
  conclude s (moveToReg8 4 d (.mem (.direct a)) s)

/-- `MOVB reg8, [reg16±off]` (41_data_movement R211). -/
def execMovbR8Ra (d : RegIdx) (m : RegAddr) (s : State) : Host.Outcome State Fault Refusal :=
  conclude s (moveToReg8 4 d (.mem (.indexed m)) s)

/-- `MOVB [addr], reg8` (41_data_movement R212). -/
def execMovbAdR8 (a : Word) (r : RegIdx) (s : State) : Host.Outcome State Fault Refusal :=
  conclude s (moveToMem8 4 (.direct a) (.reg r) s)

/-- `MOVB [reg16±off], reg8` (41_data_movement R213). -/
def execMovbRaR8 (m : RegAddr) (r : RegIdx) (s : State) : Host.Outcome State Fault Refusal :=
  conclude s (moveToMem8 4 (.indexed m) (.reg r) s)

/-- `MOVB reg8, byte` (41_data_movement R214). -/
def execMovbR8B (d : RegIdx) (v : Byte) (s : State) : Host.Outcome State Fault Refusal :=
  conclude s (moveToReg8 3 d (.imm v) s)

/-- `MOVB [addr], byte` (41_data_movement R215). -/
def execMovbAdB (a : Word) (v : Byte) (s : State) : Host.Outcome State Fault Refusal :=
  conclude s (moveToMem8 4 (.direct a) (.imm v) s)

/-- `MOVB [reg16±off], byte` (41_data_movement R216). -/
def execMovbRaB (m : RegAddr) (v : Byte) (s : State) : Host.Outcome State Fault Refusal :=
  conclude s (moveToMem8 4 (.indexed m) (.imm v) s)

end Sys2Proof.Machine
end

