-- ==== Sys2Proof/Machine/Logic.lean ====
section
/-! DEFINITION. The meanings of AND, OR, XOR, NOT, SHL, SHR and their byte forms (43_logic_shift), one definition per row of the opcode map. -/

namespace Sys2Proof.Machine

/-- `AND reg16, reg16` (43_logic_shift R291). -/
def execAndR16R16 (d : RegIdx) (r : RegIdx) (s : State) : Host.Outcome State Fault Refusal :=
  conclude s (aluReg16 aluAnd 3 d (.reg r) s)

/-- `AND reg16, [reg16±off]` (43_logic_shift R292). -/
def execAndR16Ra (d : RegIdx) (m : RegAddr) (s : State) : Host.Outcome State Fault Refusal :=
  conclude s (aluReg16 aluAnd 4 d (.mem (.indexed m)) s)

/-- `AND reg16, [addr]` (43_logic_shift R293). -/
def execAndR16Ad (d : RegIdx) (a : Word) (s : State) : Host.Outcome State Fault Refusal :=
  conclude s (aluReg16 aluAnd 4 d (.mem (.direct a)) s)

/-- `AND reg16, word` (43_logic_shift R294). -/
def execAndR16W (d : RegIdx) (v : Word) (s : State) : Host.Outcome State Fault Refusal :=
  conclude s (aluReg16 aluAnd 4 d (.imm v) s)

/-- `ANDB reg8, reg8` (43_logic_shift R295). -/
def execAndbR8R8 (d : RegIdx) (r : RegIdx) (s : State) : Host.Outcome State Fault Refusal :=
  conclude s (aluReg8 aluAnd 3 d (.reg r) s)

/-- `ANDB reg8, [reg16±off]` (43_logic_shift R296). -/
def execAndbR8Ra (d : RegIdx) (m : RegAddr) (s : State) : Host.Outcome State Fault Refusal :=
  conclude s (aluReg8 aluAnd 4 d (.mem (.indexed m)) s)

/-- `ANDB reg8, [addr]` (43_logic_shift R297). -/
def execAndbR8Ad (d : RegIdx) (a : Word) (s : State) : Host.Outcome State Fault Refusal :=
  conclude s (aluReg8 aluAnd 4 d (.mem (.direct a)) s)

/-- `ANDB reg8, byte` (43_logic_shift R298). -/
def execAndbR8B (d : RegIdx) (v : Byte) (s : State) : Host.Outcome State Fault Refusal :=
  conclude s (aluReg8 aluAnd 3 d (.imm v) s)

/-- `OR reg16, reg16` (43_logic_shift R299). -/
def execOrR16R16 (d : RegIdx) (r : RegIdx) (s : State) : Host.Outcome State Fault Refusal :=
  conclude s (aluReg16 aluOr 3 d (.reg r) s)

/-- `OR reg16, [reg16±off]` (43_logic_shift R300). -/
def execOrR16Ra (d : RegIdx) (m : RegAddr) (s : State) : Host.Outcome State Fault Refusal :=
  conclude s (aluReg16 aluOr 4 d (.mem (.indexed m)) s)

/-- `OR reg16, [addr]` (43_logic_shift R301). -/
def execOrR16Ad (d : RegIdx) (a : Word) (s : State) : Host.Outcome State Fault Refusal :=
  conclude s (aluReg16 aluOr 4 d (.mem (.direct a)) s)

/-- `OR reg16, word` (43_logic_shift R302). -/
def execOrR16W (d : RegIdx) (v : Word) (s : State) : Host.Outcome State Fault Refusal :=
  conclude s (aluReg16 aluOr 4 d (.imm v) s)

/-- `ORB reg8, reg8` (43_logic_shift R303). -/
def execOrbR8R8 (d : RegIdx) (r : RegIdx) (s : State) : Host.Outcome State Fault Refusal :=
  conclude s (aluReg8 aluOr 3 d (.reg r) s)

/-- `ORB reg8, [reg16±off]` (43_logic_shift R304). -/
def execOrbR8Ra (d : RegIdx) (m : RegAddr) (s : State) : Host.Outcome State Fault Refusal :=
  conclude s (aluReg8 aluOr 4 d (.mem (.indexed m)) s)

/-- `ORB reg8, [addr]` (43_logic_shift R305). -/
def execOrbR8Ad (d : RegIdx) (a : Word) (s : State) : Host.Outcome State Fault Refusal :=
  conclude s (aluReg8 aluOr 4 d (.mem (.direct a)) s)

/-- `ORB reg8, byte` (43_logic_shift R306). -/
def execOrbR8B (d : RegIdx) (v : Byte) (s : State) : Host.Outcome State Fault Refusal :=
  conclude s (aluReg8 aluOr 3 d (.imm v) s)

/-- `XOR reg16, reg16` (43_logic_shift R307). -/
def execXorR16R16 (d : RegIdx) (r : RegIdx) (s : State) : Host.Outcome State Fault Refusal :=
  conclude s (aluReg16 aluXor 3 d (.reg r) s)

/-- `XOR reg16, [reg16±off]` (43_logic_shift R308). -/
def execXorR16Ra (d : RegIdx) (m : RegAddr) (s : State) : Host.Outcome State Fault Refusal :=
  conclude s (aluReg16 aluXor 4 d (.mem (.indexed m)) s)

/-- `XOR reg16, [addr]` (43_logic_shift R309). -/
def execXorR16Ad (d : RegIdx) (a : Word) (s : State) : Host.Outcome State Fault Refusal :=
  conclude s (aluReg16 aluXor 4 d (.mem (.direct a)) s)

/-- `XOR reg16, word` (43_logic_shift R310). -/
def execXorR16W (d : RegIdx) (v : Word) (s : State) : Host.Outcome State Fault Refusal :=
  conclude s (aluReg16 aluXor 4 d (.imm v) s)

/-- `XORB reg8, reg8` (43_logic_shift R311). -/
def execXorbR8R8 (d : RegIdx) (r : RegIdx) (s : State) : Host.Outcome State Fault Refusal :=
  conclude s (aluReg8 aluXor 3 d (.reg r) s)

/-- `XORB reg8, [reg16±off]` (43_logic_shift R312). -/
def execXorbR8Ra (d : RegIdx) (m : RegAddr) (s : State) : Host.Outcome State Fault Refusal :=
  conclude s (aluReg8 aluXor 4 d (.mem (.indexed m)) s)

/-- `XORB reg8, [addr]` (43_logic_shift R313). -/
def execXorbR8Ad (d : RegIdx) (a : Word) (s : State) : Host.Outcome State Fault Refusal :=
  conclude s (aluReg8 aluXor 4 d (.mem (.direct a)) s)

/-- `XORB reg8, byte` (43_logic_shift R314). -/
def execXorbR8B (d : RegIdx) (v : Byte) (s : State) : Host.Outcome State Fault Refusal :=
  conclude s (aluReg8 aluXor 3 d (.imm v) s)

/-- `NOT reg16` (43_logic_shift R315). -/
def execNotR16 (r : RegIdx) (s : State) : Host.Outcome State Fault Refusal :=
  conclude s (unary16 aluNot r s)

/-- `NOTB reg8` (43_logic_shift R316). -/
def execNotbR8 (r : RegIdx) (s : State) : Host.Outcome State Fault Refusal :=
  conclude s (unary8 aluNot r s)

/-- `SHL reg16, reg16` (43_logic_shift R317). -/
def execShlR16R16 (d : RegIdx) (r : RegIdx) (s : State) : Host.Outcome State Fault Refusal :=
  conclude s (aluReg16 aluShl 3 d (.reg r) s)

/-- `SHL reg16, [reg16±off]` (43_logic_shift R318). -/
def execShlR16Ra (d : RegIdx) (m : RegAddr) (s : State) : Host.Outcome State Fault Refusal :=
  conclude s (aluReg16 aluShl 4 d (.mem (.indexed m)) s)

/-- `SHL reg16, [addr]` (43_logic_shift R319). -/
def execShlR16Ad (d : RegIdx) (a : Word) (s : State) : Host.Outcome State Fault Refusal :=
  conclude s (aluReg16 aluShl 4 d (.mem (.direct a)) s)

/-- `SHL reg16, word` (43_logic_shift R320). -/
def execShlR16W (d : RegIdx) (v : Word) (s : State) : Host.Outcome State Fault Refusal :=
  conclude s (aluReg16 aluShl 4 d (.imm v) s)

/-- `SHLB reg8, reg8` (43_logic_shift R321). -/
def execShlbR8R8 (d : RegIdx) (r : RegIdx) (s : State) : Host.Outcome State Fault Refusal :=
  conclude s (aluReg8 aluShl 3 d (.reg r) s)

/-- `SHLB reg8, [reg16±off]` (43_logic_shift R322). -/
def execShlbR8Ra (d : RegIdx) (m : RegAddr) (s : State) : Host.Outcome State Fault Refusal :=
  conclude s (aluReg8 aluShl 4 d (.mem (.indexed m)) s)

/-- `SHLB reg8, [addr]` (43_logic_shift R323). -/
def execShlbR8Ad (d : RegIdx) (a : Word) (s : State) : Host.Outcome State Fault Refusal :=
  conclude s (aluReg8 aluShl 4 d (.mem (.direct a)) s)

/-- `SHLB reg8, byte` (43_logic_shift R324). -/
def execShlbR8B (d : RegIdx) (v : Byte) (s : State) : Host.Outcome State Fault Refusal :=
  conclude s (aluReg8 aluShl 3 d (.imm v) s)

/-- `SHR reg16, reg16` (43_logic_shift R325). -/
def execShrR16R16 (d : RegIdx) (r : RegIdx) (s : State) : Host.Outcome State Fault Refusal :=
  conclude s (aluReg16 aluShr 3 d (.reg r) s)

/-- `SHR reg16, [reg16±off]` (43_logic_shift R326). -/
def execShrR16Ra (d : RegIdx) (m : RegAddr) (s : State) : Host.Outcome State Fault Refusal :=
  conclude s (aluReg16 aluShr 4 d (.mem (.indexed m)) s)

/-- `SHR reg16, [addr]` (43_logic_shift R327). -/
def execShrR16Ad (d : RegIdx) (a : Word) (s : State) : Host.Outcome State Fault Refusal :=
  conclude s (aluReg16 aluShr 4 d (.mem (.direct a)) s)

/-- `SHR reg16, word` (43_logic_shift R328). -/
def execShrR16W (d : RegIdx) (v : Word) (s : State) : Host.Outcome State Fault Refusal :=
  conclude s (aluReg16 aluShr 4 d (.imm v) s)

/-- `SHRB reg8, reg8` (43_logic_shift R329). -/
def execShrbR8R8 (d : RegIdx) (r : RegIdx) (s : State) : Host.Outcome State Fault Refusal :=
  conclude s (aluReg8 aluShr 3 d (.reg r) s)

/-- `SHRB reg8, [reg16±off]` (43_logic_shift R330). -/
def execShrbR8Ra (d : RegIdx) (m : RegAddr) (s : State) : Host.Outcome State Fault Refusal :=
  conclude s (aluReg8 aluShr 4 d (.mem (.indexed m)) s)

/-- `SHRB reg8, [addr]` (43_logic_shift R331). -/
def execShrbR8Ad (d : RegIdx) (a : Word) (s : State) : Host.Outcome State Fault Refusal :=
  conclude s (aluReg8 aluShr 4 d (.mem (.direct a)) s)

/-- `SHRB reg8, byte` (43_logic_shift R332). -/
def execShrbR8B (d : RegIdx) (v : Byte) (s : State) : Host.Outcome State Fault Refusal :=
  conclude s (aluReg8 aluShr 3 d (.imm v) s)

end Sys2Proof.Machine
end

