-- ==== Sys2Proof/Machine/Stack.lean ====
section
/-! DEFINITION. The meanings of PUSH, PUSHB, POP and POPB (45_stack), one definition per row of the opcode map. -/

namespace Sys2Proof.Machine

/-- `PUSH reg16` (45_stack R366). -/
def execPushR16 (r : RegIdx) (s : State) : Host.Outcome State Fault Refusal :=
  conclude s (pushWord 2 (.reg r) s)

/-- `PUSH [reg16±off]` (45_stack R367). -/
def execPushRa (m : RegAddr) (s : State) : Host.Outcome State Fault Refusal :=
  conclude s (pushWord 3 (.mem (.indexed m)) s)

/-- `PUSH [addr]` (45_stack R368). -/
def execPushAd (a : Word) (s : State) : Host.Outcome State Fault Refusal :=
  conclude s (pushWord 3 (.mem (.direct a)) s)

/-- `PUSH word` (45_stack R369). -/
def execPushW (v : Word) (s : State) : Host.Outcome State Fault Refusal :=
  conclude s (pushWord 3 (.imm v) s)

/-- `PUSHB reg8` (45_stack R370). -/
def execPushbR8 (r : RegIdx) (s : State) : Host.Outcome State Fault Refusal :=
  conclude s (pushByte 2 (.reg r) s)

/-- `PUSHB [reg16±off]` (45_stack R371). -/
def execPushbRa (m : RegAddr) (s : State) : Host.Outcome State Fault Refusal :=
  conclude s (pushByte 3 (.mem (.indexed m)) s)

/-- `PUSHB [addr]` (45_stack R372). -/
def execPushbAd (a : Word) (s : State) : Host.Outcome State Fault Refusal :=
  conclude s (pushByte 3 (.mem (.direct a)) s)

/-- `PUSHB byte` (45_stack R373). -/
def execPushbB (v : Byte) (s : State) : Host.Outcome State Fault Refusal :=
  conclude s (pushByte 2 (.imm v) s)

/-- `POP reg16` (45_stack R374). -/
def execPopR16 (r : RegIdx) (s : State) : Host.Outcome State Fault Refusal :=
  conclude s (popWord r s)

/-- `POPB reg8` (45_stack R375). -/
def execPopbR8 (r : RegIdx) (s : State) : Host.Outcome State Fault Refusal :=
  conclude s (popByte r s)

end Sys2Proof.Machine
end

