-- ==== Sys2Proof/Machine/System.lean ====
section
/-! DEFINITION. The meanings of HLT, CLI, STI, IRET, SVC, IN and OUT (46_system), one definition per row of the opcode map. -/

namespace Sys2Proof.Machine

/-- `HLT` (46_system R381). -/
def execHlt (s : State) : Host.Outcome State Fault Refusal :=
  conclude s (haltSelf s)

/-- `CLI` (46_system R382). -/
def execCli (s : State) : Host.Outcome State Fault Refusal :=
  conclude s (writeIrqMask false s)

/-- `STI` (46_system R383). -/
def execSti (s : State) : Host.Outcome State Fault Refusal :=
  conclude s (writeIrqMask true s)

/-- `IRET` (46_system R384). -/
def execIret (s : State) : Host.Outcome State Fault Refusal :=
  conclude s (trapReturn s)

/-- `SVC` (46_system R385). -/
def execSvc (s : State) : Host.Outcome State Fault Refusal :=
  .next (supervisorCall s)

/-- `IN reg16` (46_system R386). -/
def execInR16 (r : RegIdx) (s : State) : Host.Outcome State Fault Refusal :=
  conclude s (input 2 (.reg r) s)

/-- `IN [reg16±off]` (46_system R387). -/
def execInRa (m : RegAddr) (s : State) : Host.Outcome State Fault Refusal :=
  conclude s (input 3 (.mem (.indexed m)) s)

/-- `IN [addr]` (46_system R388). -/
def execInAd (a : Word) (s : State) : Host.Outcome State Fault Refusal :=
  conclude s (input 3 (.mem (.direct a)) s)

/-- `IN word` (46_system R389). -/
def execInW (v : Word) (s : State) : Host.Outcome State Fault Refusal :=
  conclude s (input 3 (.imm v) s)

/-- `OUT reg16` (46_system R390). -/
def execOutR16 (r : RegIdx) (s : State) : Host.Outcome State Fault Refusal :=
  conclude s (output 2 (.reg r) s)

/-- `OUT [reg16±off]` (46_system R391). -/
def execOutRa (m : RegAddr) (s : State) : Host.Outcome State Fault Refusal :=
  conclude s (output 3 (.mem (.indexed m)) s)

/-- `OUT [addr]` (46_system R392). -/
def execOutAd (a : Word) (s : State) : Host.Outcome State Fault Refusal :=
  conclude s (output 3 (.mem (.direct a)) s)

/-- `OUT word` (46_system R393). -/
def execOutW (v : Word) (s : State) : Host.Outcome State Fault Refusal :=
  conclude s (output 3 (.imm v) s)

end Sys2Proof.Machine
end

