-- ==== Sys2Proof/Machine/Dispatch.lean ====
section
/-! DEFINITION. One instruction, by its constructor: each arm is one call of the instruction's meaning. -/

namespace Sys2Proof.Machine

def exec (i : Instr) (s : State) : Host.Outcome State Fault Refusal :=
  match i with
  | .hlt => Sys2Proof.Machine.execHlt s
  | .movR16R16 d r => Sys2Proof.Machine.execMovR16R16 d r s
  | .movR16Ad d a => Sys2Proof.Machine.execMovR16Ad d a s
  | .movR16Ra d m => Sys2Proof.Machine.execMovR16Ra d m s
  | .movAdR16 a r => Sys2Proof.Machine.execMovAdR16 a r s
  | .movRaR16 m r => Sys2Proof.Machine.execMovRaR16 m r s
  | .movR16W d v => Sys2Proof.Machine.execMovR16W d v s
  | .movAdW a v => Sys2Proof.Machine.execMovAdW a v s
  | .movRaW m v => Sys2Proof.Machine.execMovRaW m v s
  | .movbR8R8 d r => Sys2Proof.Machine.execMovbR8R8 d r s
  | .movbR8Ad d a => Sys2Proof.Machine.execMovbR8Ad d a s
  | .movbR8Ra d m => Sys2Proof.Machine.execMovbR8Ra d m s
  | .movbAdR8 a r => Sys2Proof.Machine.execMovbAdR8 a r s
  | .movbRaR8 m r => Sys2Proof.Machine.execMovbRaR8 m r s
  | .movbR8B d v => Sys2Proof.Machine.execMovbR8B d v s
  | .movbAdB a v => Sys2Proof.Machine.execMovbAdB a v s
  | .movbRaB m v => Sys2Proof.Machine.execMovbRaB m v s
  | .addR16R16 d r => Sys2Proof.Machine.execAddR16R16 d r s
  | .addR16Ra d m => Sys2Proof.Machine.execAddR16Ra d m s
  | .addR16Ad d a => Sys2Proof.Machine.execAddR16Ad d a s
  | .addR16W d v => Sys2Proof.Machine.execAddR16W d v s
  | .addbR8R8 d r => Sys2Proof.Machine.execAddbR8R8 d r s
  | .addbR8Ra d m => Sys2Proof.Machine.execAddbR8Ra d m s
  | .addbR8Ad d a => Sys2Proof.Machine.execAddbR8Ad d a s
  | .addbR8B d v => Sys2Proof.Machine.execAddbR8B d v s
  | .subR16R16 d r => Sys2Proof.Machine.execSubR16R16 d r s
  | .subR16Ra d m => Sys2Proof.Machine.execSubR16Ra d m s
  | .subR16Ad d a => Sys2Proof.Machine.execSubR16Ad d a s
  | .subR16W d v => Sys2Proof.Machine.execSubR16W d v s
  | .subbR8R8 d r => Sys2Proof.Machine.execSubbR8R8 d r s
  | .subbR8Ra d m => Sys2Proof.Machine.execSubbR8Ra d m s
  | .subbR8Ad d a => Sys2Proof.Machine.execSubbR8Ad d a s
  | .subbR8B d v => Sys2Proof.Machine.execSubbR8B d v s
  | .incR16 r => Sys2Proof.Machine.execIncR16 r s
  | .incbR8 r => Sys2Proof.Machine.execIncbR8 r s
  | .decR16 r => Sys2Proof.Machine.execDecR16 r s
  | .decbR8 r => Sys2Proof.Machine.execDecbR8 r s
  | .cmpR16R16 d r => Sys2Proof.Machine.execCmpR16R16 d r s
  | .cmpR16Ra d m => Sys2Proof.Machine.execCmpR16Ra d m s
  | .cmpR16Ad d a => Sys2Proof.Machine.execCmpR16Ad d a s
  | .cmpR16W d v => Sys2Proof.Machine.execCmpR16W d v s
  | .cmpbR8R8 d r => Sys2Proof.Machine.execCmpbR8R8 d r s
  | .cmpbR8Ra d m => Sys2Proof.Machine.execCmpbR8Ra d m s
  | .cmpbR8Ad d a => Sys2Proof.Machine.execCmpbR8Ad d a s
  | .cmpbR8B d v => Sys2Proof.Machine.execCmpbR8B d v s
  | .jmpRa m => Sys2Proof.Machine.execJmpRa m s
  | .jmpW v => Sys2Proof.Machine.execJmpW v s
  | .jcRa m => Sys2Proof.Machine.execJcRa m s
  | .jcW v => Sys2Proof.Machine.execJcW v s
  | .jncRa m => Sys2Proof.Machine.execJncRa m s
  | .jncW v => Sys2Proof.Machine.execJncW v s
  | .jzRa m => Sys2Proof.Machine.execJzRa m s
  | .jzW v => Sys2Proof.Machine.execJzW v s
  | .jnzRa m => Sys2Proof.Machine.execJnzRa m s
  | .jnzW v => Sys2Proof.Machine.execJnzW v s
  | .jaRa m => Sys2Proof.Machine.execJaRa m s
  | .jaW v => Sys2Proof.Machine.execJaW v s
  | .jnaRa m => Sys2Proof.Machine.execJnaRa m s
  | .jnaW v => Sys2Proof.Machine.execJnaW v s
  | .pushR16 r => Sys2Proof.Machine.execPushR16 r s
  | .pushRa m => Sys2Proof.Machine.execPushRa m s
  | .pushAd a => Sys2Proof.Machine.execPushAd a s
  | .pushW v => Sys2Proof.Machine.execPushW v s
  | .pushbR8 r => Sys2Proof.Machine.execPushbR8 r s
  | .pushbRa m => Sys2Proof.Machine.execPushbRa m s
  | .pushbAd a => Sys2Proof.Machine.execPushbAd a s
  | .pushbB v => Sys2Proof.Machine.execPushbB v s
  | .popR16 r => Sys2Proof.Machine.execPopR16 r s
  | .popbR8 r => Sys2Proof.Machine.execPopbR8 r s
  | .callRa m => Sys2Proof.Machine.execCallRa m s
  | .callW v => Sys2Proof.Machine.execCallW v s
  | .ret => Sys2Proof.Machine.execRet s
  | .mulR16 r => Sys2Proof.Machine.execMulR16 r s
  | .mulRa m => Sys2Proof.Machine.execMulRa m s
  | .mulAd a => Sys2Proof.Machine.execMulAd a s
  | .mulW v => Sys2Proof.Machine.execMulW v s
  | .mulbR8 r => Sys2Proof.Machine.execMulbR8 r s
  | .mulbRa m => Sys2Proof.Machine.execMulbRa m s
  | .mulbAd a => Sys2Proof.Machine.execMulbAd a s
  | .mulbB v => Sys2Proof.Machine.execMulbB v s
  | .divR16 r => Sys2Proof.Machine.execDivR16 r s
  | .divRa m => Sys2Proof.Machine.execDivRa m s
  | .divAd a => Sys2Proof.Machine.execDivAd a s
  | .divW v => Sys2Proof.Machine.execDivW v s
  | .divbR8 r => Sys2Proof.Machine.execDivbR8 r s
  | .divbRa m => Sys2Proof.Machine.execDivbRa m s
  | .divbAd a => Sys2Proof.Machine.execDivbAd a s
  | .divbB v => Sys2Proof.Machine.execDivbB v s
  | .andR16R16 d r => Sys2Proof.Machine.execAndR16R16 d r s
  | .andR16Ra d m => Sys2Proof.Machine.execAndR16Ra d m s
  | .andR16Ad d a => Sys2Proof.Machine.execAndR16Ad d a s
  | .andR16W d v => Sys2Proof.Machine.execAndR16W d v s
  | .andbR8R8 d r => Sys2Proof.Machine.execAndbR8R8 d r s
  | .andbR8Ra d m => Sys2Proof.Machine.execAndbR8Ra d m s
  | .andbR8Ad d a => Sys2Proof.Machine.execAndbR8Ad d a s
  | .andbR8B d v => Sys2Proof.Machine.execAndbR8B d v s
  | .orR16R16 d r => Sys2Proof.Machine.execOrR16R16 d r s
  | .orR16Ra d m => Sys2Proof.Machine.execOrR16Ra d m s
  | .orR16Ad d a => Sys2Proof.Machine.execOrR16Ad d a s
  | .orR16W d v => Sys2Proof.Machine.execOrR16W d v s
  | .orbR8R8 d r => Sys2Proof.Machine.execOrbR8R8 d r s
  | .orbR8Ra d m => Sys2Proof.Machine.execOrbR8Ra d m s
  | .orbR8Ad d a => Sys2Proof.Machine.execOrbR8Ad d a s
  | .orbR8B d v => Sys2Proof.Machine.execOrbR8B d v s
  | .xorR16R16 d r => Sys2Proof.Machine.execXorR16R16 d r s
  | .xorR16Ra d m => Sys2Proof.Machine.execXorR16Ra d m s
  | .xorR16Ad d a => Sys2Proof.Machine.execXorR16Ad d a s
  | .xorR16W d v => Sys2Proof.Machine.execXorR16W d v s
  | .xorbR8R8 d r => Sys2Proof.Machine.execXorbR8R8 d r s
  | .xorbR8Ra d m => Sys2Proof.Machine.execXorbR8Ra d m s
  | .xorbR8Ad d a => Sys2Proof.Machine.execXorbR8Ad d a s
  | .xorbR8B d v => Sys2Proof.Machine.execXorbR8B d v s
  | .notR16 r => Sys2Proof.Machine.execNotR16 r s
  | .notbR8 r => Sys2Proof.Machine.execNotbR8 r s
  | .shlR16R16 d r => Sys2Proof.Machine.execShlR16R16 d r s
  | .shlR16Ra d m => Sys2Proof.Machine.execShlR16Ra d m s
  | .shlR16Ad d a => Sys2Proof.Machine.execShlR16Ad d a s
  | .shlR16W d v => Sys2Proof.Machine.execShlR16W d v s
  | .shlbR8R8 d r => Sys2Proof.Machine.execShlbR8R8 d r s
  | .shlbR8Ra d m => Sys2Proof.Machine.execShlbR8Ra d m s
  | .shlbR8Ad d a => Sys2Proof.Machine.execShlbR8Ad d a s
  | .shlbR8B d v => Sys2Proof.Machine.execShlbR8B d v s
  | .shrR16R16 d r => Sys2Proof.Machine.execShrR16R16 d r s
  | .shrR16Ra d m => Sys2Proof.Machine.execShrR16Ra d m s
  | .shrR16Ad d a => Sys2Proof.Machine.execShrR16Ad d a s
  | .shrR16W d v => Sys2Proof.Machine.execShrR16W d v s
  | .shrbR8R8 d r => Sys2Proof.Machine.execShrbR8R8 d r s
  | .shrbR8Ra d m => Sys2Proof.Machine.execShrbR8Ra d m s
  | .shrbR8Ad d a => Sys2Proof.Machine.execShrbR8Ad d a s
  | .shrbR8B d v => Sys2Proof.Machine.execShrbR8B d v s
  | .cli => Sys2Proof.Machine.execCli s
  | .sti => Sys2Proof.Machine.execSti s
  | .iret => Sys2Proof.Machine.execIret s
  | .svc => Sys2Proof.Machine.execSvc s
  | .inR16 r => Sys2Proof.Machine.execInR16 r s
  | .inRa m => Sys2Proof.Machine.execInRa m s
  | .inAd a => Sys2Proof.Machine.execInAd a s
  | .inW v => Sys2Proof.Machine.execInW v s
  | .outR16 r => Sys2Proof.Machine.execOutR16 r s
  | .outRa m => Sys2Proof.Machine.execOutRa m s
  | .outAd a => Sys2Proof.Machine.execOutAd a s
  | .outW v => Sys2Proof.Machine.execOutW v s

end Sys2Proof.Machine
end

