-- ==== Sys2Proof/Machine/Step.lean ====
section
/-! DEFINITION. One call of `step()` (60_exceptions R475). -/

namespace Sys2Proof.Machine

/-- `step()`: an error in FAULT (60_exceptions R493), a tick and the interrupt check when halted, else one instruction, with the exception its
fetch or decoding raises taken, followed by the tick and the interrupt check (R475). -/
def step (s : State) : Host.Outcome State Fault Refusal :=
  if s.faulted then .fault .machineFaulted
  else if s.halted then .next (haltedStep s)
  else
    match fetchDecode s with
    | .ok i => finishStep (exec i s)
    | .error e => finishStep (.next (takeException e s))

/-- The state with an instruction, given as spec/opcode_table.json numbers its bits, stored at IP, and running: SR.HALT and SR.FAULT are
cleared so that the next step fetches (DESIGN CHOICE, safe, logs 6 and 19). -/
def State.withFetchWord (s : State) (nbits w : Nat) : State :=
  pokeAll (tableBytes nbits w) s.ip.toNat ((s.setHalted false).setFaulted false)

end Sys2Proof.Machine
end

