-- ==== Sys2Proof/Machine/Assembler.lean ====
section
/-! DEFINITION. The assembler, a pure function from source text to an image, a line map and a label table, or an error with its line
(49_assembler). Log 14 says how the lexical corners the rules leave open are read (DESIGN CHOICE, unsafe). -/

namespace Sys2Proof.Machine

/-- The kinds of assembler error (49_assembler R450). -/
inductive AsmErrorKind where
  | syntaxError
  | unknownMnemonic
  | operandMismatch
  | duplicateLabel
  | reservedLabel
  | undefinedLabel
  | numberFormatError
  deriving DecidableEq, Repr

/-- An error and the 0-based line it is reported with (49_assembler R451). -/
structure AsmError where
  kind : AsmErrorKind
  line : Nat
  deriving DecidableEq, Repr

/-- An upper-cased name. -/
abbrev AsmName := List Char

/-- What the assembler produces (49_assembler R455). -/
structure AsmOutput where
  code    : List Byte
  lineMap : List (Nat × Nat)
  labels  : List (AsmName × Nat)
  deriving DecidableEq, Repr

/-- One position of the code buffer: a byte, or one half of a label placeholder with the line that used the label (49_assembler R442). -/
inductive Slot where
  | byte (v : Byte)
  | labelHigh (name : AsmName) (line : Nat)
  | labelLow (name : AsmName) (line : Nat)
  deriving DecidableEq, Repr

/-- The assembler's state during a run (49_assembler R421). -/
structure AsmState where
  code    : List Slot
  lineMap : List (Nat × Nat)
  labels  : List (AsmName × Nat)
  deriving DecidableEq, Repr

/-! ### Characters (49_assembler R424, R425) -/

/-- A letter is one of A to Z and a to z. 49_assembler R425 says "letter" alone and R423 allows codes up to 255: no code from 128 on is a
letter here, in identifiers, in mnemonics and in upper-casing (DESIGN CHOICE, unsafe, log 14). -/
def isLetter (c : Char) : Bool :=
  (decide (65 ≤ c.toNat) && decide (c.toNat ≤ 90)) || (decide (97 ≤ c.toNat) && decide (c.toNat ≤ 122))

def isDigit (c : Char) : Bool := decide (48 ≤ c.toNat) && decide (c.toNat ≤ 57)

def isBlank (c : Char) : Bool := c == ' ' || c == '\t'

/-- The character with a small letter made large; the letters are those of `isLetter` (DESIGN CHOICE, unsafe, log 14). -/
def upperChar (c : Char) : Char :=
  if 97 ≤ c.toNat ∧ c.toNat ≤ 122 then Char.ofNat (c.toNat - 32) else c

def upper (cs : List Char) : AsmName := cs.map upperChar

def trimLeft (cs : List Char) : List Char := cs.dropWhile isBlank

def trim (cs : List Char) : List Char := (trimLeft (trimLeft cs).reverse).reverse

/-- An identifier's first character (49_assembler R425). -/
def isIdentStart (c : Char) : Bool := c == '.' || c == '_' || isLetter c

/-- An identifier's further characters (49_assembler R425). -/
def isIdentRest (c : Char) : Bool := c == '_' || isLetter c || isDigit c

/-- The text is one identifier. -/
def isIdent : List Char → Bool
  | [] => false
  | c :: cs => isIdentStart c && cs.all isIdentRest

/-- The identifier at the start of the text and what follows it, if one stands there. -/
def takeIdent : List Char → Option (List Char × List Char)
  | [] => none
  | c :: cs => if isIdentStart c then some (c :: cs.takeWhile isIdentRest, cs.dropWhile isIdentRest) else none

/-! ### Lines and comments (49_assembler R423, R424) -/

/-- The text split at line feeds; an empty text is one empty line. -/
def splitLines : List Char → List (List Char)
  | [] => [[]]
  | c :: cs =>
    match splitLines cs with
    | [] => [[c]]
    | l :: ls => if c == '\n' then [] :: l :: ls else (c :: l) :: ls

/-- The lines of a source text, carriage returns deleted. -/
def sourceLines (text : List Char) : List (List Char) := splitLines (text.filter (fun c => c != '\r'))

/-- Where a scan of a line stands: outside quotes, inside quotes of a kind, or inside them after a backslash. -/
inductive QuoteState where
  | plain
  | quoted (q : Char)
  | escaped (q : Char)
  deriving DecidableEq, Repr

/-- The scan's state after one more character. -/
def QuoteState.next : QuoteState → Char → QuoteState
  | .plain, c => if c == '"' || c == '\'' then .quoted c else .plain
  | .quoted q, c => if c == '\\' then .escaped q else if c == q then .plain else .quoted q
  | .escaped q, _ => .quoted q

/-- The line without its comment. -/
def dropComment : QuoteState → List Char → List Char
  | _, [] => []
  | q, c :: cs => if q = .plain ∧ c = ';' then [] else c :: dropComment (q.next c) cs

/-- The text split at the commas outside quotes; `none` when a quote is not closed. -/
def splitOperands : QuoteState → List Char → Option (List (List Char))
  | q, [] => if q = .plain then some [[]] else none
  | q, c :: cs =>
    match splitOperands (q.next c) cs with
    | none => none
    | some [] => some [[c]]
    | some (p :: ps) => if q = .plain ∧ c = ',' then some ([] :: p :: ps) else some ((c :: p) :: ps)

/-! ### Numbers and quotes (49_assembler R431 to R433) -/

/-- The value of a digit in bases up to 16. -/
def digitValue (c : Char) : Option Nat :=
  let n := c.toNat
  if 48 ≤ n ∧ n ≤ 57 then some (n - 48)
  else if 65 ≤ n ∧ n ≤ 70 then some (n - 55)
  else if 97 ≤ n ∧ n ≤ 102 then some (n - 87)
  else none

/-- The value of the digits in a base, read on from `acc`; `none` if one is no digit of the base. -/
def digitsFrom (base : Nat) : Nat → List Char → Option Nat
  | acc, [] => some acc
  | acc, c :: cs =>
    match digitValue c with
    | some d => if d < base then digitsFrom base (acc * base + d) cs else none
    | none => none

/-- One or more digits in a base. -/
def digits (base : Nat) (cs : List Char) : Option Nat := if cs.isEmpty then none else digitsFrom base 0 cs

/-- Digits in a base after a two-character prefix whose second character is one of two. -/
def prefixed (x y : Char) (base : Nat) : List Char → Option Nat
  | '0' :: c :: cs => if c == x || c == y then digits base cs else none
  | _ => none

/-- Digits in a base before a one-character suffix that is one of two. -/
def suffixed (x y : Char) (base : Nat) (cs : List Char) : Option Nat :=
  match cs.reverse with
  | c :: ds => if c == x || c == y then digits base ds.reverse else none
  | [] => none

/-- A numeric literal: the five forms, tried in order on the whole token (49_assembler R431). -/
def numericLiteral (cs : List Char) : Option Nat :=
  (prefixed 'x' 'X' 16 cs).orElse fun _ =>
    (prefixed 'o' 'O' 8 cs).orElse fun _ =>
      (suffixed 'b' 'B' 2 cs).orElse fun _ =>
        (suffixed 'd' 'D' 10 cs).orElse fun _ => digits 10 cs

/-- The code of a one-character escape (49_assembler R433). -/
def simpleEscape (c : Char) : Option Nat :=
  if c == 'n' then some 10
  else if c == 't' then some 9
  else if c == 'r' then some 13
  else if c == '0' then some 0
  else if c == '\\' then some 92
  else if c == '"' then some 34
  else if c == '\'' then some 39
  else none

/-- The codes of the characters of a quoted text after its opening quote `q`, escapes processed; `none` if it is not well formed or
does not end at its closing quote (49_assembler R433). -/
def quotedBody (q : Char) : List Char → Option (List Nat)
  | [] => none
  | '\\' :: 'x' :: h :: l :: cs =>
    match digits 16 [h, l], quotedBody q cs with
    | some v, some vs => some (v :: vs)
    | _, _ => none
  | '\\' :: e :: cs =>
    match simpleEscape e, quotedBody q cs with
    | some v, some vs => some (v :: vs)
    | _, _ => none
  | c :: cs =>
    if c == q then (if cs.isEmpty then some [] else none)
    else if c == '\\' then none
    else
      match quotedBody q cs with
      | some vs => some (c.toNat :: vs)
      | none => none

/-! ### Registers and operands (49_assembler R430, R434 to R436) -/

/-- The names that instructions take as 16-bit register operands, with their indices (10_state R33). -/
def names16 : List (AsmName × RegIdx) := [(['A'], 0), (['B'], 1), (['C'], 2), (['D'], 3), (['S', 'P'], 4)]

/-- The names of the half-registers, with their indices (10_state R33). -/
def names8 : List (AsmName × RegIdx) :=
  [(['A', 'H'], 9), (['A', 'L'], 10), (['B', 'H'], 11), (['B', 'L'], 12), (['C', 'H'], 13), (['C', 'L'], 14),
    (['D', 'H'], 15), (['D', 'L'], 16)]

/-- The register names no instruction takes. -/
def namesSpecial : List AsmName := [['U', 'S', 'P'], ['S', 'S', 'P'], ['I', 'P'], ['S', 'R']]

/-- The seventeen reserved names (49_assembler R427). -/
def reservedNames : List AsmName := names16.map Prod.fst ++ names8.map Prod.fst ++ namesSpecial

/-- An operand's typed value (49_assembler R436). -/
inductive AsmOperand where
  | reg16 (i : RegIdx)
  | reg8 (i : RegIdx)
  | number (v : Nat)
  | label (name : AsmName)
  | address (v : Nat)
  | addressLabel (name : AsmName)
  | regAddr (offset : Int) (base : RegIdx)
  deriving DecidableEq, Repr

/-- The classes of operands in the lookup (49_assembler R440). -/
inductive OperandClass where
  | r16
  | r8
  | ra
  | ad
  | num
  deriving DecidableEq, Repr

/-- The class of an operand (49_assembler R436). -/
def AsmOperand.operandClass : AsmOperand → OperandClass
  | .reg16 _ => .r16
  | .reg8 _ => .r8
  | .number _ => .num
  | .label _ => .num
  | .address _ => .ad
  | .addressLabel _ => .ad
  | .regAddr _ _ => .ra

/-- The class of an operand type: BYTE and WORD are one numeric class (49_assembler R440). -/
def classOfType : OperandType → OperandClass
  | .r16 => .r16
  | .r8 => .r8
  | .byte => .num
  | .word => .num
  | .addr => .ad
  | .regAddr => .ra

/-- An offset and a base make a REGADDRESS operand; both are checked (49_assembler R434). -/
def baseOperand (name : AsmName) (offset : Int) : Except AsmErrorKind AsmOperand :=
  match names16.lookup name with
  | some i => if -128 ≤ offset ∧ offset ≤ 127 then .ok (.regAddr offset i) else .error .operandMismatch
  | none => .error .operandMismatch

/-- The direct address form of a bracketed operand. -/
def directOperand (inner : List Char) : Except AsmErrorKind AsmOperand :=
  match numericLiteral inner with
  | some v => .ok (.address v)
  | none => .error .numberFormatError

/-- The text between the brackets, trimmed, as an operand (49_assembler R434). -/
def bracketOperand (inner : List Char) : Except AsmErrorKind AsmOperand :=
  match takeIdent inner with
  | none => directOperand inner
  | some (word, rest) =>
    let name := upper word
    match trimLeft rest with
    | [] => if reservedNames.contains name then baseOperand name 0 else .ok (.addressLabel name)
    | sign :: num =>
      if reservedNames.contains name ∧ (sign = '+' ∨ sign = '-') then
        match numericLiteral (trimLeft num) with
        | some v => baseOperand name (if sign = '+' then (v : Int) else -(v : Int))
        | none => .error .numberFormatError
      else directOperand inner

/-- A quoted character's code: exactly one character or escape (49_assembler R432). -/
def quotedChar (body : List Char) : Except AsmErrorKind Nat :=
  match quotedBody '\'' body with
  | some [v] => .ok v
  | _ => .error .syntaxError

/-- An instruction's operand, classified by its text in the order of 49_assembler R436. A string is OperandMismatch outside `DB`, and a bad
escape is SyntaxError; a string with a bad escape, or with text after its closing quote, is both, and is SyntaxError here (DESIGN CHOICE,
unsafe, log 14). -/
def classifyOperand (text : List Char) : Except AsmErrorKind AsmOperand :=
  let name := upper text
  match names16.lookup name with
  | some i => .ok (.reg16 i)
  | none =>
    match names8.lookup name with
    | some i => .ok (.reg8 i)
    | none =>
      if namesSpecial.contains name then .error .operandMismatch
      else
        match text with
        | '[' :: cs =>
          match cs.reverse with
          | ']' :: inner => bracketOperand (trim inner.reverse)
          | _ => .error .syntaxError
        | '"' :: cs => if (quotedBody '"' cs).isSome then .error .operandMismatch else .error .syntaxError
        | '\'' :: cs =>
          match quotedChar cs with
          | .ok v => .ok (.number v)
          | .error e => .error e
        | _ =>
          if isIdent text then .ok (.label name)
          else
            match numericLiteral text with
            | some v => .ok (.number v)
            | none => .error .numberFormatError

/-! ### Lookup, validation, emission (49_assembler R440 to R444) -/

/-- A decoded operand as the assembler classifies its text (49_assembler R436). -/
def asmOperand : Operand → AsmOperand
  | .r16 i => .reg16 i
  | .r8 i => .reg8 i
  | .byte v => .number v.toNat
  | .word v => .number v.toNat
  | .addr a => .address a.toNat
  | .regAddr m => .regAddr m.offset.toInt m.base

/-- The registry's entry for a mnemonic and the classes of its operands (49_assembler R440). -/
def lookupRow (mnemonic : AsmName) (classes : List OperandClass) : Except AsmErrorKind Row :=
  match registry.filter (fun row => row.mnemonic == mnemonic) with
  | [] => .error .unknownMnemonic
  | rows =>
    match rows.find? (fun row => row.shape.types.map classOfType == classes) with
    | some row => .ok row
    | none => .error .operandMismatch

/-- The two bytes of a value, high byte first; a value above 65535 does not fit (49_assembler R441, R442). -/
def wordSlots (v : Nat) : Except AsmErrorKind (List Slot) :=
  if v ≤ 65535 then .ok [.byte (hiByte (BitVec.ofNat 16 v)), .byte (loByte (BitVec.ofNat 16 v))] else .error .operandMismatch

/-- A label's placeholder (49_assembler R442). -/
def labelSlots (name : AsmName) (line : Nat) : List Slot := [.labelHigh name line, .labelLow name line]

/-- One operand checked against the entry's operand type, and its bytes (49_assembler R441, R442). -/
def emitOperand (line : Nat) : OperandType → AsmOperand → Except AsmErrorKind (List Slot)
  | .r16, .reg16 i => .ok [.byte i]
  | .r8, .reg8 i => .ok [.byte i]
  | .byte, .number v => if v ≤ 255 then .ok [.byte (BitVec.ofNat 8 v)] else .error .operandMismatch
  | .word, .number v => wordSlots v
  | .word, .label name => .ok (labelSlots name line)
  | .addr, .address v => wordSlots v
  | .addr, .addressLabel name => .ok (labelSlots name line)
  | .regAddr, .regAddr offset base => .ok [.byte (BitVec.ofInt 8 offset), .byte base]
  | _, _ => .error .operandMismatch

/-- The operands of an instruction, left to right (49_assembler R442). -/
def emitOperands (line : Nat) : List OperandType → List AsmOperand → Except AsmErrorKind (List Slot)
  | [], [] => .ok []
  | t :: ts, o :: os => do
    let first ← emitOperand line t o
    let rest ← emitOperands line ts os
    return first ++ rest
  | _, _ => .error .operandMismatch

/-- The alias SRET (49_assembler R444). -/
def canonicalMnemonic (name : AsmName) : AsmName :=
  if name = ['S', 'R', 'E', 'T'] then ['I', 'R', 'E', 'T'] else name

/-- An instruction's bytes: the entry's opcode, then the operands (49_assembler R440, R442). -/
def emitInstruction (line : Nat) (mnemonic : AsmName) (operands : List AsmOperand) : Except AsmErrorKind (List Slot) := do
  let row ← lookupRow (canonicalMnemonic mnemonic) (operands.map AsmOperand.operandClass)
  let slots ← emitOperands line row.shape.types operands
  return .byte row.opcode :: slots

/-- The bytes of a `DB` operand (49_assembler R446). A bracket is NumberFormatError there, whether or not it is closed; R434's and R450's
SyntaxError for a missing bracket is not given (DESIGN CHOICE, unsafe, log 14). -/
def dataBytes (text : List Char) : Except AsmErrorKind (List Slot) :=
  match text with
  | '"' :: cs =>
    match quotedBody '"' cs with
    | some vs => .ok (vs.map (fun v => .byte (BitVec.ofNat 8 v)))
    | none => .error .syntaxError
  | '\'' :: cs =>
    match quotedChar cs with
    | .ok v => .ok [.byte (BitVec.ofNat 8 v)]
    | .error e => .error e
  | _ =>
    match numericLiteral text with
    | some v => if v ≤ 255 then .ok [.byte (BitVec.ofNat 8 v)] else .error .operandMismatch
    | none => .error .numberFormatError

/-! ### Lines (49_assembler R425 to R427, R451) -/

/-- The operand texts of a statement, trimmed: at most two, none empty (49_assembler R425). -/
def operandTexts (rest : List Char) : Except AsmErrorKind (List (List Char)) :=
  match trim rest with
  | [] => .ok []
  | ':' :: _ => .error .syntaxError
  | cs =>
    match splitOperands .plain cs with
    | none => .error .syntaxError
    | some parts =>
      let texts := parts.map trim
      if texts.any List.isEmpty ∨ 2 < texts.length then .error .syntaxError else .ok texts

/-- A statement that is an instruction or `DB`, added to the run (49_assembler R425, R443, R446). The order of R451 does not place the operand
count of `DB`: it is checked before the operands are read, so `DB 12q, 5` is SyntaxError (DESIGN CHOICE, unsafe, log 14). -/
def assembleStatement (line : Nat) (text : List Char) (st : AsmState) : Except AsmErrorKind AsmState := do
  let word := text.takeWhile (fun c => !isBlank c)
  if word.all isLetter then
    let texts ← operandTexts (text.dropWhile (fun c => !isBlank c))
    if upper word = ['D', 'B'] then
      match texts with
      | [operand] => do
        let slots ← dataBytes operand
        return { st with code := st.code ++ slots }
      | _ => .error .syntaxError
    else
      let operands ← texts.mapM classifyOperand
      let slots ← emitInstruction line (upper word) operands
      return { st with code := st.code ++ slots, lineMap := st.lineMap ++ [(st.code.length, line)] }
  else .error .syntaxError

/-- The label defined at the start of a line, if one is, and the rest of the line (49_assembler R425). -/
def splitLabel (text : List Char) : Option (AsmName × List Char) :=
  match takeIdent text with
  | some (word, rest) =>
    match trimLeft rest with
    | ':' :: after => some (upper word, trimLeft after)
    | _ => none
  | none => none

/-- A label's definition: a reserved or known name is an error, in this order (49_assembler R426, R427). -/
def defineLabel (name : AsmName) (st : AsmState) : Except AsmErrorKind AsmState :=
  if reservedNames.contains name then .error .reservedLabel
  else if (st.labels.lookup name).isSome then .error .duplicateLabel
  else .ok { st with labels := st.labels ++ [(name, st.code.length)] }

/-- A statement, or nothing (49_assembler R424). -/
def assembleRest (line : Nat) (text : List Char) (st : AsmState) : Except AsmErrorKind AsmState :=
  if text.isEmpty then .ok st else assembleStatement line text st

/-- One line: its label, then its statement (49_assembler R451). -/
def assembleLine (line : Nat) (source : List Char) (st : AsmState) : Except AsmErrorKind AsmState :=
  let text := trim (dropComment .plain source)
  match splitLabel text with
  | some (name, rest) =>
    match defineLabel name st with
    | .ok t => assembleRest line rest t
    | .error e => .error e
  | none => assembleRest line text st

/-- The lines from number `line` on; the first error stops the run (49_assembler R451). -/
def assembleLines : Nat → List (List Char) → AsmState → Except AsmError AsmState
  | _, [], st => .ok st
  | line, source :: sources, st =>
    match assembleLine line source st with
    | .ok t => assembleLines (line + 1) sources t
    | .error kind => .error { kind := kind, line := line }

/-! ### The patch pass and the whole run (49_assembler R447, R455) -/

/-- A label's offset as a word, for the line that used it (49_assembler R447). -/
def resolveLabel (labels : List (AsmName × Nat)) (name : AsmName) (line : Nat) : Except AsmError Word :=
  match labels.lookup name with
  | none => .error { kind := .undefinedLabel, line := line }
  | some v => if v ≤ 65535 then .ok (BitVec.ofNat 16 v) else .error { kind := .operandMismatch, line := line }

/-- The byte at a position of the buffer, a placeholder's half being its label's (49_assembler R447). -/
def resolveSlot (labels : List (AsmName × Nat)) : Slot → Except AsmError Byte
  | .byte v => .ok v
  | .labelHigh name line => do
    let w ← resolveLabel labels name line
    return hiByte w
  | .labelLow name line => do
    let w ← resolveLabel labels name line
    return loByte w

/-- The placeholders replaced, in buffer order (49_assembler R447). -/
def patch (labels : List (AsmName × Nat)) : List Slot → Except AsmError (List Byte)
  | [] => .ok []
  | slot :: slots => do
    let v ← resolveSlot labels slot
    let vs ← patch labels slots
    return v :: vs

/-- `assemble` on a text of characters (49_assembler R420, R422). -/
def assembleChars (text : List Char) : Except AsmError AsmOutput := do
  let st ← assembleLines 0 (sourceLines text) { code := [], lineMap := [], labels := [] }
  let code ← patch st.labels st.code
  return { code := code, lineMap := st.lineMap, labels := st.labels }

/-- `assemble`: source text is a sequence of characters with codes 0 to 255 (49_assembler R420, R423). -/
def assemble (text : List Byte) : Except AsmError AsmOutput :=
  assembleChars (text.map (fun v => Char.ofNat v.toNat))

end Sys2Proof.Machine
end

