-- ==== Sys2Proof/Machine/Forms.lean ====
section
/-! DEFINITION. The operand forms of the mnemonics: which constructor a mnemonic with given operands is. The claims use them to speak of
every form of an instruction at once. -/

namespace Sys2Proof.Machine

/-- The operations `x[d] <- x[d] op source` with a row for each source form. -/
inductive BinOp where
  | add
  | sub
  | and
  | or
  | xor
  | shl
  | shr
  deriving DecidableEq, Repr

/-- The operations on one register. -/
inductive UnOp where
  | inc
  | dec
  | not
  deriving DecidableEq, Repr

/-- The conditions of the jumps (44_control_transfer R341); `always` is JMP. -/
inductive Cond where
  | always
  | c
  | nc
  | z
  | nz
  | a
  | na
  deriving DecidableEq, Repr

/-- `MOV` to a register: MOV R16_R16, R16_AD, R16_RA, R16_W. -/
def movForm (d : RegIdx) : Src16 → Instr
  | .reg r => .movR16R16 d r
  | .mem (.direct a) => .movR16Ad d a
  | .mem (.indexed m) => .movR16Ra d m
  | .imm v => .movR16W d v

/-- `MOVB` to a half-register: MOVB R8_R8, R8_AD, R8_RA, R8_B. -/
def movbForm (d : RegIdx) : Src8 → Instr
  | .reg r => .movbR8R8 d r
  | .mem (.direct a) => .movbR8Ad d a
  | .mem (.indexed m) => .movbR8Ra d m
  | .imm v => .movbR8B d v

/-- `MOV [..], reg16`: MOV AD_R16, RA_R16. -/
def movStoreReg (o : MemOperand) (r : RegIdx) : Instr :=
  match o with
  | .direct a => .movAdR16 a r
  | .indexed m => .movRaR16 m r

/-- `MOV [..], word`: MOV AD_W, RA_W. -/
def movStoreImm (o : MemOperand) (v : Word) : Instr :=
  match o with
  | .direct a => .movAdW a v
  | .indexed m => .movRaW m v

/-- `MOVB [..], reg8`: MOVB AD_R8, RA_R8. -/
def movbStoreReg (o : MemOperand) (r : RegIdx) : Instr :=
  match o with
  | .direct a => .movbAdR8 a r
  | .indexed m => .movbRaR8 m r

/-- `MOVB [..], byte`: MOVB AD_B, RA_B. -/
def movbStoreImm (o : MemOperand) (v : Byte) : Instr :=
  match o with
  | .direct a => .movbAdB a v
  | .indexed m => .movbRaB m v

/-- ADD, SUB, AND, OR, XOR, SHL, SHR: their four rows each. -/
def binForm (op : BinOp) (d : RegIdx) (src : Src16) : Instr :=
  match op, src with
  | .add, .reg r => .addR16R16 d r
  | .add, .mem (.direct a) => .addR16Ad d a
  | .add, .mem (.indexed m) => .addR16Ra d m
  | .add, .imm v => .addR16W d v
  | .sub, .reg r => .subR16R16 d r
  | .sub, .mem (.direct a) => .subR16Ad d a
  | .sub, .mem (.indexed m) => .subR16Ra d m
  | .sub, .imm v => .subR16W d v
  | .and, .reg r => .andR16R16 d r
  | .and, .mem (.direct a) => .andR16Ad d a
  | .and, .mem (.indexed m) => .andR16Ra d m
  | .and, .imm v => .andR16W d v
  | .or, .reg r => .orR16R16 d r
  | .or, .mem (.direct a) => .orR16Ad d a
  | .or, .mem (.indexed m) => .orR16Ra d m
  | .or, .imm v => .orR16W d v
  | .xor, .reg r => .xorR16R16 d r
  | .xor, .mem (.direct a) => .xorR16Ad d a
  | .xor, .mem (.indexed m) => .xorR16Ra d m
  | .xor, .imm v => .xorR16W d v
  | .shl, .reg r => .shlR16R16 d r
  | .shl, .mem (.direct a) => .shlR16Ad d a
  | .shl, .mem (.indexed m) => .shlR16Ra d m
  | .shl, .imm v => .shlR16W d v
  | .shr, .reg r => .shrR16R16 d r
  | .shr, .mem (.direct a) => .shrR16Ad d a
  | .shr, .mem (.indexed m) => .shrR16Ra d m
  | .shr, .imm v => .shrR16W d v

/-- ADDB, SUBB, ANDB, ORB, XORB, SHLB, SHRB: their four rows each. -/
def binbForm (op : BinOp) (d : RegIdx) (src : Src8) : Instr :=
  match op, src with
  | .add, .reg r => .addbR8R8 d r
  | .add, .mem (.direct a) => .addbR8Ad d a
  | .add, .mem (.indexed m) => .addbR8Ra d m
  | .add, .imm v => .addbR8B d v
  | .sub, .reg r => .subbR8R8 d r
  | .sub, .mem (.direct a) => .subbR8Ad d a
  | .sub, .mem (.indexed m) => .subbR8Ra d m
  | .sub, .imm v => .subbR8B d v
  | .and, .reg r => .andbR8R8 d r
  | .and, .mem (.direct a) => .andbR8Ad d a
  | .and, .mem (.indexed m) => .andbR8Ra d m
  | .and, .imm v => .andbR8B d v
  | .or, .reg r => .orbR8R8 d r
  | .or, .mem (.direct a) => .orbR8Ad d a
  | .or, .mem (.indexed m) => .orbR8Ra d m
  | .or, .imm v => .orbR8B d v
  | .xor, .reg r => .xorbR8R8 d r
  | .xor, .mem (.direct a) => .xorbR8Ad d a
  | .xor, .mem (.indexed m) => .xorbR8Ra d m
  | .xor, .imm v => .xorbR8B d v
  | .shl, .reg r => .shlbR8R8 d r
  | .shl, .mem (.direct a) => .shlbR8Ad d a
  | .shl, .mem (.indexed m) => .shlbR8Ra d m
  | .shl, .imm v => .shlbR8B d v
  | .shr, .reg r => .shrbR8R8 d r
  | .shr, .mem (.direct a) => .shrbR8Ad d a
  | .shr, .mem (.indexed m) => .shrbR8Ra d m
  | .shr, .imm v => .shrbR8B d v

/-- CMP: its four rows. -/
def cmpForm (d : RegIdx) : Src16 → Instr
  | .reg r => .cmpR16R16 d r
  | .mem (.direct a) => .cmpR16Ad d a
  | .mem (.indexed m) => .cmpR16Ra d m
  | .imm v => .cmpR16W d v

/-- CMPB: its four rows. -/
def cmpbForm (d : RegIdx) : Src8 → Instr
  | .reg r => .cmpbR8R8 d r
  | .mem (.direct a) => .cmpbR8Ad d a
  | .mem (.indexed m) => .cmpbR8Ra d m
  | .imm v => .cmpbR8B d v

/-- INC, DEC, NOT. -/
def unForm (op : UnOp) (r : RegIdx) : Instr :=
  match op with
  | .inc => .incR16 r
  | .dec => .decR16 r
  | .not => .notR16 r

/-- INCB, DECB, NOTB. -/
def unbForm (op : UnOp) (r : RegIdx) : Instr :=
  match op with
  | .inc => .incbR8 r
  | .dec => .decbR8 r
  | .not => .notbR8 r

/-- MUL: its four rows. -/
def mulForm : Src16 → Instr
  | .reg r => .mulR16 r
  | .mem (.direct a) => .mulAd a
  | .mem (.indexed m) => .mulRa m
  | .imm v => .mulW v

/-- MULB: its four rows. -/
def mulbForm : Src8 → Instr
  | .reg r => .mulbR8 r
  | .mem (.direct a) => .mulbAd a
  | .mem (.indexed m) => .mulbRa m
  | .imm v => .mulbB v

/-- DIV: its four rows. -/
def divForm : Src16 → Instr
  | .reg r => .divR16 r
  | .mem (.direct a) => .divAd a
  | .mem (.indexed m) => .divRa m
  | .imm v => .divW v

/-- DIVB: its four rows. -/
def divbForm : Src8 → Instr
  | .reg r => .divbR8 r
  | .mem (.direct a) => .divbAd a
  | .mem (.indexed m) => .divbRa m
  | .imm v => .divbB v

/-- PUSH: its four rows. -/
def pushForm : Src16 → Instr
  | .reg r => .pushR16 r
  | .mem (.direct a) => .pushAd a
  | .mem (.indexed m) => .pushRa m
  | .imm v => .pushW v

/-- PUSHB: its four rows. -/
def pushbForm : Src8 → Instr
  | .reg r => .pushbR8 r
  | .mem (.direct a) => .pushbAd a
  | .mem (.indexed m) => .pushbRa m
  | .imm v => .pushbB v

/-- IN: its four rows. -/
def inForm : Src16 → Instr
  | .reg r => .inR16 r
  | .mem (.direct a) => .inAd a
  | .mem (.indexed m) => .inRa m
  | .imm v => .inW v

/-- OUT: its four rows. -/
def outForm : Src16 → Instr
  | .reg r => .outR16 r
  | .mem (.direct a) => .outAd a
  | .mem (.indexed m) => .outRa m
  | .imm v => .outW v

/-- JMP, JC, JNC, JZ, JNZ, JA, JNA: their two rows each. -/
def jumpForm (cond : Cond) (target : Target) : Instr :=
  match cond, target with
  | .always, .absolute v => .jmpW v
  | .always, .indexed m => .jmpRa m
  | .c, .absolute v => .jcW v
  | .c, .indexed m => .jcRa m
  | .nc, .absolute v => .jncW v
  | .nc, .indexed m => .jncRa m
  | .z, .absolute v => .jzW v
  | .z, .indexed m => .jzRa m
  | .nz, .absolute v => .jnzW v
  | .nz, .indexed m => .jnzRa m
  | .a, .absolute v => .jaW v
  | .a, .indexed m => .jaRa m
  | .na, .absolute v => .jnaW v
  | .na, .indexed m => .jnaRa m

/-- CALL: its two rows. -/
def callForm : Target → Instr
  | .absolute v => .callW v
  | .indexed m => .callRa m

/-- When a jump is taken (44_control_transfer R341). -/
def Cond.holds (s : State) : Cond → Bool
  | .always => true
  | .c => s.carry
  | .nc => !s.carry
  | .z => s.zero
  | .nz => !s.zero
  | .a => !s.carry && !s.zero
  | .na => s.carry || s.zero

/-- The mnemonics that write ZERO and CARRY (10_state R44) are the rows 17 to 44 and 72 to 129 of the opcode map. -/
def writesFlags (i : Instr) : Bool :=
  (decide (17 ≤ i.opcode.toNat) && decide (i.opcode.toNat ≤ 44)) || (decide (72 ≤ i.opcode.toNat) && decide (i.opcode.toNat ≤ 129))

/-- CLI, STI, IRET, IN and OUT (46_system R380) are the rows 130 to 132 and 134 to 141 of the opcode map. -/
def privileged (i : Instr) : Bool :=
  (decide (130 ≤ i.opcode.toNat) && decide (i.opcode.toNat ≤ 132)) || (decide (134 ≤ i.opcode.toNat) && decide (i.opcode.toNat ≤ 141))

/-- Whether an operand's base register, if it has one, is A, B, C, D or SP. -/
def baseLegal : Operand → Bool
  | .regAddr m => isReg16 m.base
  | _ => true

/-- Every base register of the instruction's REGADDRESS operands is legal, which decoding itself checks (30_encoding R128). -/
def basesLegal (i : Instr) : Bool := i.operands.all baseLegal

/-- How many operand bytes decoding reads: all of them, or those up to and including the first illegal base (30_encoding R124). -/
def operandBytesRead : List Operand → Nat
  | [] => 0
  | o :: os => o.size + if baseLegal o then operandBytesRead os else 0

/-- How many bytes of an instruction's encoding decoding reads, the opcode byte among them (30_encoding R124). -/
def bytesRead (i : Instr) : Nat := 1 + operandBytesRead i.operands

end Sys2Proof.Machine
end

