-- ==== Sys2Proof/Machine/HostCalls.lean ====
section
/-! DEFINITION. The host's entry points between steps (70_reset_and_hazards R560 to R564, 60_exceptions R501); `step` is `Machine.step`. A run of
`Core` makes none of these calls (DESIGN CHOICE, unsafe, log 5). -/

namespace Sys2Proof.Machine

/-- What a host call other than `step()` can ask for (70_reset_and_hazards R560). -/
inductive HostCall where
  | reset
  | raiseLine (n : Nat)
  | lowerLine (n : Nat)
  | triggerLine (n : Nat)
  | loadImage (image : List Byte)
  | storeByte (addr : Int) (v : Byte)
  | writeExtIo (addr v : Word)
  deriving DecidableEq, Repr

/-- What a call reports to the host (70_reset_and_hazards R560, R561, R564; DESIGN CHOICE, safe, log 18). -/
inductive HostReport where
  /-- The call had its effect. -/
  | completed
  /-- The machine went to FAULT in this call. -/
  | exception (e : Exc)
  /-- The machine is in FAULT and nothing changed (60_exceptions R493). -/
  | alreadyFaulted
  /-- No such interrupt line (60_exceptions R501). -/
  | noSuchLine
  /-- The image is longer than memory (20_memory R105). -/
  | imageTooLong
  /-- A Memory error, raw (70_reset_and_hazards R564). -/
  | memoryError (e : MemError)
  /-- No `EXT_IO` register at that I/O address. -/
  | noSuchRegister
  deriving DecidableEq, Repr

/-- What a step or a line call that ended in `t` reports (70_reset_and_hazards R561). -/
def reportOf (t : State) : HostReport :=
  match t.stepError with
  | some e => .exception e
  | none => .completed

/-- What `step()` reports (70_reset_and_hazards R561). -/
def stepReport (s : State) : HostReport :=
  match step s with
  | .next t => reportOf t
  | .fault .machineFaulted => .alreadyFaulted
  | .refused _ => .alreadyFaulted

/-- `reset()`: the power-on state under the same parameters (70_reset_and_hazards R550, R551). -/
def resetCall (s : State) : State := powerOn s.cfg

/-- `raise_hardware_interrupt(n)` without its checks: the level and the pending bit (60_exceptions R501). -/
def assertLine (n : Nat) (s : State) : State :=
  { s with icLevel := setBit s.icLevel n true, icStatus := setBit s.icStatus n true }

/-- `lower_hardware_interrupt(n)` without its checks: the level alone (60_exceptions R501). -/
def releaseLine (n : Nat) (s : State) : State := { s with icLevel := setBit s.icLevel n false }

/-- `trigger_hardware_interrupt(n)` without its checks: the pending bit alone (60_exceptions R501). -/
def pulseLine (n : Nat) (s : State) : State := { s with icStatus := setBit s.icStatus n true }

/-- A line entry point: refused in FAULT, and for a line that is not 0 to 15; else the line moves and the interrupt check follows
(60_exceptions R493, R501). -/
def lineCall (move : State → State) (n : Nat) (s : State) : State × HostReport :=
  if s.faulted then (s, .alreadyFaulted)
  else if 15 < n then (s, .noSuchLine)
  else
    let t := recogniseInterrupt (move s.clearError)
    (t, reportOf t)

/-- `LoadImage(bytes)` (20_memory R105). -/
def loadImage (image : List Byte) (s : State) : State × HostReport :=
  if s.cfg.memSize < image.length then (s, .imageTooLong) else (pokeAll image 0 s, .completed)

/-- `store_byte(addr, val)` by the host (70_reset_and_hazards R564). -/
def hostStore (addr : Int) (v : Byte) (s : State) : State × HostReport :=
  match memWrite8 s addr v with
  | .ok t => (t, .completed)
  | .error e => (s, .memoryError e)

/-- The write of an `EXT_IO` register by its peripheral, whatever its permission (70_reset_and_hazards R563). -/
def hostExtIo (addr v : Word) (s : State) : State × HostReport :=
  match Config.extIoAt s.cfg addr with
  | some _ => ({ s with extIo := extStore s.extIo addr v }, .completed)
  | none => (s, .noSuchRegister)

/-- The state after a host call, and what it reports (70_reset_and_hazards R560). -/
def hostCall (call : HostCall) (s : State) : State × HostReport :=
  match call with
  | .reset => (resetCall s, .completed)
  | .raiseLine n => lineCall (assertLine n) n s
  | .lowerLine n => lineCall (releaseLine n) n s
  | .triggerLine n => lineCall (pulseLine n) n s
  | .loadImage image => loadImage image s
  | .storeByte addr v => hostStore addr v s
  | .writeExtIo addr v => hostExtIo addr v s

end Sys2Proof.Machine
end

