-- ==== Sys2Proof/Safety.lean ====
section
/-! DEFINITION. The terms the claims are stated in: the invariant of the state, what an instruction may leave changed, memory words and
stack frames, and how a run ends. -/

namespace Sys2Proof.Machine

/-! ### The invariant -/

/-- What every step and every host call keeps. The parameters are valid (00_scope R6); memory is in its canonical form inside
`0 .. MEM_SIZE-1` (10_state R50); the `EXT_IO` registers are those declared (10_state R51); an error report stands only in FAULT
(60_exceptions R491, R492); between steps the timer is never PRELOADED, in RESET its words are 0 and in DEPLETED its counter is 0 (60_exceptions
R521, R523); a line whose level is asserted is pending (60_exceptions R500, R501). -/
structure State.Inv (s : State) : Prop where
  paramsValid     : s.cfg.wf = true
  memoryCanonical : Memory.wf s.cfg.memSize s.mem = true
  extIoDeclared   : s.extIo.map Prod.fst = s.cfg.extIo.map ExtIoReg.addr
  errorInFault    : s.stepError ≠ none → s.faulted = true
  neverPreloaded  : s.tmrState ≠ .preloaded
  timerStopped    : s.tmrState = .reset → s.tmrPreload = 0 ∧ s.tmrCounter = 0
  timerDepleted   : s.tmrState = .depleted → s.tmrCounter = 0
  levelPending    : s.icLevel &&& s.icStatus = s.icLevel

/-! ### Frames: what stays -/

/-- No byte of memory changed. -/
def SameMemory (s t : State) : Prop := ∀ n : Nat, t.mem.read n = s.mem.read n

/-- No byte of memory changed outside the `k` bytes from `x` on. -/
def SameMemoryOutside (x : Int) (k : Nat) (s t : State) : Prop :=
  ∀ n : Nat, ((n : Int) < x ∨ x + (k : Int) ≤ (n : Int)) → t.mem.read n = s.mem.read n

/-- The parameters, the interrupt controller, the timer and the `EXT_IO` registers did not change. -/
def SameDevices (s t : State) : Prop :=
  t.cfg = s.cfg ∧ t.icMask = s.icMask ∧ t.icStatus = s.icStatus ∧ t.icLevel = s.icLevel ∧ t.icEoi = s.icEoi ∧
    t.tmrState = s.tmrState ∧ t.tmrPreload = s.tmrPreload ∧ t.tmrCounter = s.tmrCounter ∧ t.extIo = s.extIo

/-- The stack pointer that SP does not name in `s` did not change (10_state R35). -/
def OtherSpSame (s t : State) : Prop := if s.supervisor then t.usp = s.usp else t.ssp = s.ssp

/-- Of A, B, C, D and SP only those listed may have changed, and the other stack pointer did not. -/
def Only16 (written : List RegIdx) (s t : State) : Prop :=
  (∀ q : RegIdx, isReg16 q = true → q ∉ written → t.reg16 q = s.reg16 q) ∧ OtherSpSame s t

/-- Of the eight half-registers only those listed may have changed, and neither stack pointer did. -/
def Only8 (written : List RegIdx) (s t : State) : Prop :=
  (∀ q : RegIdx, isReg8 q = true → q ∉ written → t.reg8 q = s.reg8 q) ∧ t.usp = s.usp ∧ t.ssp = s.ssp

/-- Of the bits of SR only those listed may have changed. -/
def OnlySrBits (written : List Nat) (s t : State) : Prop :=
  ∀ n : Nat, n ∉ written → t.sr.getLsbD n = s.sr.getLsbD n

/-- An ALU instruction with a 16-bit destination `d` completes: the destination and both flags get these values, IP moves past the instruction,
and nothing else changes. -/
def AluCompletes16 (i : Instr) (s : State) (d : RegIdx) (result : Word) (carry zero : Bool) : Prop :=
  ∃ t, exec i s = .next t ∧ t.reg16 d = result ∧ t.carry = carry ∧ t.zero = zero ∧ t.ip = s.ip + BitVec.ofNat 16 i.size ∧
    Only16 [d] s t ∧ OnlySrBits [2, 3] s t ∧ SameMemory s t ∧ SameDevices s t ∧ t.stepError = none

/-- The same for a half-register destination. -/
def AluCompletes8 (i : Instr) (s : State) (d : RegIdx) (result : Byte) (carry zero : Bool) : Prop :=
  ∃ t, exec i s = .next t ∧ t.reg8 d = result ∧ t.carry = carry ∧ t.zero = zero ∧ t.ip = s.ip + BitVec.ofNat 16 i.size ∧
    Only8 [d] s t ∧ OnlySrBits [2, 3] s t ∧ SameMemory s t ∧ SameDevices s t ∧ t.stepError = none

/-! ### Memory -/

/-- A write of `k` bytes from `x` on passes its checks: every byte is in bounds and read-write (20_memory R85, R87). -/
def Writable (s : State) (x : Int) (k : Nat) : Prop :=
  ∀ j : Nat, j < k → s.inBounds (x + (j : Int)) = true ∧ Config.permAt s.cfg (x + (j : Int)) = .rw

/-- A read of `k` bytes from `x` on passes its checks (20_memory R84, R86). -/
def Readable (s : State) (x : Int) (k : Nat) : Prop := ∀ j : Nat, j < k → s.inBounds (x + (j : Int)) = true

/-- The word whose high byte is at `x` and low byte at `x + 1` (20_memory R88). -/
def State.wordAt (s : State) (x : Int) : Word := joinBytes (s.byteAt x) (s.byteAt (x + 1))

/-- The lower address of the `k`-th word of a frame pushed from `top` down, `k` from 0: SP falls by 2 for each word, modulo 65536
(20_memory R93, R98). -/
def frameSlot (top : Word) (k : Nat) : Int := ((top - BitVec.ofNat 16 (2 * k)).toNat : Int) - 1

/-- Every push of a frame of `n` words on the supervisor stack passes its checks (60_exceptions R486). -/
def FrameFits (s : State) (n : Nat) : Prop := ∀ k : Nat, k < n → Writable s (frameSlot s.ssp k) 2

/-- The words stand in the frame pushed from `top` down, in the order they were pushed (60_exceptions R490). -/
def HoldsFrame (t : State) (top : Word) (words : List Word) : Prop :=
  ∀ k : Nat, ∀ h : k < words.length, t.wordAt (frameSlot top k) = words[k]

/-- No byte of memory changed outside the frame of `n` words pushed from `top` down. -/
def SameMemoryOutsideFrame (top : Word) (n : Nat) (s t : State) : Prop :=
  ∀ x : Nat, (∀ k : Nat, k < n → (x : Int) ≠ frameSlot top k ∧ (x : Int) ≠ frameSlot top k + 1) → t.mem.read x = s.mem.read x

/-- A trap entry from `s` that pushed `words` and went to `vector`: supervisor mode, the frame on the supervisor stack, and nothing else
changed but the bits of SR listed (60_exceptions R485, R486, R490). -/
def Entered (words : List Word) (vector : Word) (srBits : List Nat) (s t : State) : Prop :=
  t.supervisor = true ∧ t.ip = vector ∧ t.ssp = s.ssp - BitVec.ofNat 16 (2 * words.length) ∧ HoldsFrame t s.ssp words ∧
    t.a = s.a ∧ t.b = s.b ∧ t.c = s.c ∧ t.d = s.d ∧ t.usp = s.usp ∧ OnlySrBits srBits s t ∧
    SameMemoryOutsideFrame s.ssp words.length s t ∧ SameDevices s t

/-! ### The end of a run (70_reset_and_hazards R580) -/

/-- The lines that can still become pending without the host: the timer's, once it was started. -/
def State.timerLine (s : State) : Word := if s.tmrState = .reset then 0 else BitVec.twoPow 16 timerIrqLine

/-- The run has ended normally: halted, and no interrupt can wake the control unit without a host line call. Further steps may still set the
timer's pending bit, which R580 counts in (`timer_line`; DEDUCED, log 12). -/
def State.endedNormally (s : State) : Bool :=
  s.halted && (!s.irqEnabled || decide (s.icMask &&& (s.icStatus ||| s.timerLine) = 0))

/-- The run has ended abnormally. -/
def State.endedAbnormally (s : State) : Bool := s.faulted

end Sys2Proof.Machine
end

