-- ==== Sys2Proof/Certificates/Slice0/Obligations.lean ====
section
/-! DEFINITION. The statements for the provers. Each docstring names the rules of spec/ the statement formalises. Where a statement speaks of
`stepError`, that clause is the model's own (log 4): the field holds the report of `step()` and the line calls, which the spec says is not
machine state (70_reset_and_hazards R561). Where one speaks of `Host.Outcome.fault`, that a step in FAULT answers it is the model's choice (log 3). -/

open Sys2Proof Sys2Proof.Machine

/-! ### Encoding -/

/-- Six words written out from 30_encoding R123 and R131 decode to the instructions they stand for. -/
def Obligations.SpecWordsDecode : Prop :=
  decode [0x00] = .ok (.hlt, []) ∧
    decode [0x06, 0x00, 0x00, 0x05] = .ok (.movR16W 0 0x0005, []) ∧
    decode [0x0B, 0x0A, 0xFE, 0x03] = .ok (.movbR8Ra 10 ⟨0xFE, 3⟩, []) ∧
    decode [0x08, 0x02, 0x01, 0x12, 0x34] = .ok (.movRaW ⟨0x02, 1⟩ 0x1234, []) ∧
    decode [0x46, 0x01, 0x50] = .ok (.callW 0x0150, []) ∧
    decode [0x8D, 0x00, 0x03] = .ok (.outW 0x0003, [])

/-- Decoding the bytes of an instruction gives the instruction and the bytes after it, for every instruction with legal base registers
(every well-formed one among them) and every value of every operand (30_encoding R120 to R131). -/
def Obligations.DecodeOfEncodeIsTheInstruction : Prop :=
  ∀ (i : Instr) (rest : List Byte), basesLegal i = true → decode (encode i ++ rest) = .ok (i, rest)

/-- What decodes is the encoding of what it decodes to, and has the size the format gives (30_encoding R121, R124). -/
def Obligations.EncodeOfDecodeIsTheBytes : Prop :=
  ∀ (bs rest : List Byte) (i : Instr), decode bs = .ok (i, rest) →
    bs = encode i ++ rest ∧ (encode i).length = i.size ∧ basesLegal i = true

/-- The three ways decoding fails: no opcode byte or not all operand bytes, an opcode above 141, an illegal base register. An illegal base
fails as soon as it is read (`bytesRead` counts the bytes up to it), whatever follows it and whether or not the later operands' bytes are there
(30_encoding R124, R128, R132, 60_exceptions R473). -/
def Obligations.DecodeRefusals : Prop :=
  decode [] = .error .fetch ∧
    (∀ (op : Byte) (rest : List Byte), decode (op :: rest) = .error .unknownOpcode ↔ 142 ≤ op.toNat) ∧
    (∀ (i : Instr) (k : Nat), basesLegal i = true → k < (encode i).length → decode ((encode i).take k) = .error .fetch) ∧
    (∀ (i : Instr) (rest : List Byte), basesLegal i = false →
      decode ((encode i).take (bytesRead i) ++ rest) = .error .illegalBase ∧ decode (encode i ++ rest) = .error .illegalBase) ∧
    (∀ (i : Instr) (k : Nat), basesLegal i = false → k < bytesRead i → decode ((encode i).take k) = .error .fetch)

/-! ### The step -/

/-- When the bytes at IP decode to an instruction and the machine is neither halted nor in FAULT, a step is the instruction, then the tick and
the interrupt check unless the instruction put the machine in FAULT (60_exceptions R475; an IRET that restores FAULT = 1 completes, log 20). -/
def Obligations.StepRunsTheDecodedInstruction : Prop :=
  ∀ (s t : State) (i : Instr) (rest : List Byte), s.faulted = false → s.halted = false →
    decode (fetchWindow s) = .ok (i, rest) → exec i s = .next t →
    step s = .next (if t.stepError = none then recogniseInterrupt (tick t) else t)

/-- The same from the bytes in memory: when memory holds the encoding of an instruction with legal base registers from IP on, all of it
inside memory, the step runs that instruction, then the tick and the interrupt check unless it put the machine in FAULT (`finishStep`; an IRET that
restores FAULT = 1 completes and ticks, log 20) (30_encoding R124, 20_memory R90, R109, 60_exceptions R475). -/
def Obligations.StepRunsTheInstructionInMemory : Prop :=
  ∀ (s : State) (i : Instr), s.faulted = false → s.halted = false → basesLegal i = true →
    s.ip.toNat + (encode i).length ≤ s.cfg.memSize →
    (∀ (k : Nat) (h : k < (encode i).length), s.mem.read (s.ip.toNat + k) = (encode i)[k]) →
    step s = finishStep (exec i s)

/-- In FAULT a step is an error and nothing else (the outcome `fault` is the model's choice, log 3); a halted machine ticks and checks for an interrupt without fetching (60_exceptions R475, R493). -/
def Obligations.StepWhenNotRunning : Prop :=
  (∀ s : State, s.faulted = true → step s = .fault .machineFaulted) ∧
    (∀ s : State, s.faulted = false → s.halted = true → step s = .next (recogniseInterrupt (tick { s with stepError := none })))

/-- Every byte string at IP executes or raises: a step of a machine that is not in FAULT always gives a next state (70_reset_and_hazards
R574). -/
def Obligations.StepNeverSticks : Prop :=
  (∀ (i : Instr) (s : State), ∃ t, exec i s = .next t) ∧
    (∀ s : State, s.faulted = false → ∃ t, step s = .next t)

/-- A fetch outside memory, an unknown opcode and an illegal base register raise their exceptions from the state before the step. An illegal
base raises as soon as it is read, though the bytes of a later operand lie outside memory (`bytesRead`; 20_memory R90, 30_encoding R124,
R132, R133, 60_exceptions R470, R473). -/
def Obligations.FetchAndDecodeExceptions : Prop :=
  ∀ s : State, s.faulted = false → s.halted = false →
    (s.cfg.memSize ≤ s.ip.toNat → step s = finishStep (.next (takeException .instructionFetch s))) ∧
    (s.ip.toNat < s.cfg.memSize → 142 ≤ (s.mem.read s.ip.toNat).toNat →
      step s = finishStep (.next (takeException .unknownOpcode s))) ∧
    (∀ i : Instr, basesLegal i = false → s.ip.toNat + bytesRead i ≤ s.cfg.memSize →
      (∀ (k : Nat) (h : k < (encode i).length), k < bytesRead i → s.mem.read (s.ip.toNat + k) = (encode i)[k]) →
      step s = finishStep (.next (takeException .illegalInstruction s))) ∧
    (∀ i : Instr, basesLegal i = false → s.ip.toNat < s.cfg.memSize → s.cfg.memSize < s.ip.toNat + bytesRead i →
      (∀ (k : Nat) (h : k < (encode i).length), s.ip.toNat + k < s.cfg.memSize → s.mem.read (s.ip.toNat + k) = (encode i)[k]) →
      step s = finishStep (.next (takeException .instructionFetch s))) ∧
    (∀ i : Instr, basesLegal i = true → s.ip.toNat < s.cfg.memSize → s.cfg.memSize < s.ip.toNat + (encode i).length →
      (∀ (k : Nat) (h : k < (encode i).length), s.ip.toNat + k < s.cfg.memSize → s.mem.read (s.ip.toNat + k) = (encode i)[k]) →
      step s = finishStep (.next (takeException .instructionFetch s)))

/-! ### Registers, memory, operands -/

/-- Half-registers are the bytes of A, B, C and D: a read returns that byte, a write changes that byte alone (10_state R32, R38, R39). -/
def Obligations.HalfRegistersAreBytesOfTheirParent : Prop :=
  ∀ (s : State) (v : Byte),
    (s.reg8 9 = s.a.extractLsb' 8 8 ∧ s.reg8 10 = s.a.extractLsb' 0 8 ∧ s.reg8 11 = s.b.extractLsb' 8 8 ∧ s.reg8 12 = s.b.extractLsb' 0 8) ∧
    (s.reg8 13 = s.c.extractLsb' 8 8 ∧ s.reg8 14 = s.c.extractLsb' 0 8 ∧ s.reg8 15 = s.d.extractLsb' 8 8 ∧ s.reg8 16 = s.d.extractLsb' 0 8) ∧
    ∀ q : RegIdx, isReg8 q = true →
      (s.setReg8 q v).reg8 q = v ∧ Only8 [q] s (s.setReg8 q v) ∧ (s.setReg8 q v).sr = s.sr ∧ (s.setReg8 q v).ip = s.ip ∧
        (s.setReg8 q v).mem = s.mem ∧ SameDevices s (s.setReg8 q v)

/-- A write of a 16-bit register and the read back, the others unchanged; `SP` names SSP in supervisor mode and USP in user mode, for reads and
for writes (10_state R35, R36, R38, R39). -/
def Obligations.RegisterReadAfterWrite : Prop :=
  ∀ (s : State) (v : Word),
    (∀ d : RegIdx, isReg16 d = true →
      (s.setReg16 d v).reg16 d = v ∧ Only16 [d] s (s.setReg16 d v) ∧ (s.setReg16 d v).sr = s.sr ∧ (s.setReg16 d v).ip = s.ip ∧
        (s.setReg16 d v).mem = s.mem ∧ SameDevices s (s.setReg16 d v)) ∧
    (s.reg16 0 = s.a ∧ s.reg16 1 = s.b ∧ s.reg16 2 = s.c ∧ s.reg16 3 = s.d ∧ s.reg16 4 = (if s.sr.getLsbD 15 then s.ssp else s.usp)) ∧
    s.setReg16 4 v = (if s.sr.getLsbD 15 then { s with ssp := v } else { s with usp := v })

/-- The memory primitives check before they act, in the order of the rules, and report the failing address, which the memory access error of a
data access then carries (20_memory R81, R84 to R87). -/
def Obligations.MemoryPrimitivesCheckThenAct : Prop :=
  ∀ (s : State) (x : Int),
    let inside := fun y : Int => 0 ≤ y ∧ y < (s.cfg.memSize : Int)
    let writeError := fun y : Int =>
      if inside y then (if Config.permAt s.cfg y = .ro then some (MemError.readOnly y) else none) else some (MemError.outOfBounds y)
    memRead8 s x = (if inside x then .ok (s.byteAt x) else .error (.outOfBounds x)) ∧
    memRead16 s x =
      (if ¬ inside x then .error (.outOfBounds x)
        else if ¬ inside (x + 1) then .error (.outOfBounds (x + 1))
        else .ok (BitVec.ofNat 16 ((s.byteAt x).toNat * 256 + (s.byteAt (x + 1)).toNat))) ∧
    (∀ v : Byte, memWrite8 s x v = (match writeError x with
      | some e => .error e
      | none => .ok { s with mem := s.mem.write x.toNat v })) ∧
    (∀ v : Word, memWrite16 s x v = (match writeError x, writeError (x + 1) with
      | some e, _ => .error e
      | none, some e => .error e
      | none, none => .ok { s with mem := (s.mem.write x.toNat (v.extractLsb' 8 8)).write (x + 1).toNat (v.extractLsb' 0 8) })) ∧
    dataAccess (.error (.outOfBounds x) : Except MemError State) = .error (.memoryAccess x) ∧
    dataAccess (.error (.readOnly x) : Except MemError State) = .error (.memoryAccess x)

/-- Words are big-endian: after a word write the high byte is at the lower address, the word reads back, and no other byte changed
(20_memory R87, R88). -/
def Obligations.WordReadAfterWordWrite : Prop :=
  ∀ (s t : State) (x : Int) (v : Word), memWrite16 s x v = .ok t →
    memRead16 t x = .ok v ∧ memRead8 t x = .ok (v.extractLsb' 8 8) ∧ memRead8 t (x + 1) = .ok (v.extractLsb' 0 8) ∧
      SameMemoryOutside x 2 s t ∧ t = { s with mem := t.mem } ∧
      (Memory.wf s.cfg.memSize s.mem = true → Memory.wf t.cfg.memSize t.mem = true)

/-- The value of each form of source operand, and what each raises when it has none (30_encoding R126 to R130). -/
def Obligations.SourceOperandValues : Prop :=
  (∀ (s : State) (r : RegIdx), (Src16.reg r).value s = (if isReg16 r then .ok (s.reg16 r) else .error .illegalInstruction) ∧
      (Src8.reg r).value s = (if isReg8 r then .ok (s.reg8 r) else .error .illegalInstruction)) ∧
    (∀ (s : State) (v : Word) (w : Byte), (Src16.imm v).value s = .ok v ∧ (Src8.imm w).value s = .ok w) ∧
    (∀ (s : State) (a : Word), (MemOperand.direct a).address s = .ok (a.toNat : Int)) ∧
    (∀ (s : State) (m : RegAddr), (MemOperand.indexed m).address s =
      (if isReg16 m.base then .ok (((s.reg16 m.base).toNat : Int) + m.offset.toInt) else .error .illegalInstruction)) ∧
    (∀ (s : State) (o : MemOperand) (x : Int), o.address s = .ok x →
      ((Readable s x 2 → (Src16.mem o).value s = .ok (s.wordAt x)) ∧ (Readable s x 1 → (Src8.mem o).value s = .ok (s.byteAt x)) ∧
        (s.inBounds x = false →
          (Src16.mem o).value s = .error (.memoryAccess x) ∧ (Src8.mem o).value s = .error (.memoryAccess x)) ∧
        (s.inBounds x = true → s.inBounds (x + 1) = false → (Src16.mem o).value s = .error (.memoryAccess (x + 1)))))

/-! ### Data movement -/

/-- MOV to a register (MOV R16_R16, R16_AD, R16_RA, R16_W) and MOVB to a half-register (MOVB R8_R8, R8_AD, R8_RA, R8_B) complete: the
destination takes the source's value and nothing else changes but IP (41_data_movement R201 to R203, R206, R209 to R211, R214). -/
def Obligations.MovToRegisterCompletes : Prop :=
  (∀ (s : State) (d : RegIdx) (src : Src16) (v : Word), isReg16 d = true → src.value s = .ok v →
    ∃ t, exec (movForm d src) s = .next t ∧ t.reg16 d = v ∧ t.ip = s.ip + BitVec.ofNat 16 (movForm d src).size ∧
      Only16 [d] s t ∧ t.sr = s.sr ∧ SameMemory s t ∧ SameDevices s t ∧ t.stepError = none) ∧
  (∀ (s : State) (d : RegIdx) (src : Src8) (v : Byte), isReg8 d = true → src.value s = .ok v →
    ∃ t, exec (movbForm d src) s = .next t ∧ t.reg8 d = v ∧ t.ip = s.ip + BitVec.ofNat 16 (movbForm d src).size ∧
      Only8 [d] s t ∧ t.sr = s.sr ∧ SameMemory s t ∧ SameDevices s t ∧ t.stepError = none)

/-- MOV to memory (MOV AD_R16, RA_R16, AD_W, RA_W) and MOVB to memory (MOVB AD_R8, RA_R8, AD_B, RA_B) complete: the word, high byte first, or
the byte is stored at the operand's address, and nothing else changes but IP (41_data_movement R204, R205, R207, R208, R212, R213, R215, R216). -/
def Obligations.MovToMemoryCompletes : Prop :=
  ∀ (s : State) (o : MemOperand) (x : Int), o.address s = .ok x →
    (Writable s x 2 → ∀ (i : Instr) (v : Word),
      ((∃ r, isReg16 r = true ∧ i = movStoreReg o r ∧ v = s.reg16 r) ∨ i = movStoreImm o v) →
        ∃ t, exec i s = .next t ∧ t.byteAt x = v.extractLsb' 8 8 ∧ t.byteAt (x + 1) = v.extractLsb' 0 8 ∧
          SameMemoryOutside x 2 s t ∧ t.ip = s.ip + BitVec.ofNat 16 i.size ∧ Only16 [] s t ∧ t.sr = s.sr ∧ SameDevices s t ∧
          t.stepError = none) ∧
    (Writable s x 1 → ∀ (i : Instr) (v : Byte),
      ((∃ r, isReg8 r = true ∧ i = movbStoreReg o r ∧ v = s.reg8 r) ∨ i = movbStoreImm o v) →
        ∃ t, exec i s = .next t ∧ t.byteAt x = v ∧ SameMemoryOutside x 1 s t ∧ t.ip = s.ip + BitVec.ofNat 16 i.size ∧
          Only16 [] s t ∧ t.sr = s.sr ∧ SameDevices s t ∧ t.stepError = none)

/-! ### Arithmetic, logic and shifts -/

/-- ADD and ADDB, every form: the sum modulo 2^N, CARRY when it reaches 2^N, ZERO when it is 0 modulo 2^N (40_alu R162, R173; 42_arithmetic R232 to
R239). -/
def Obligations.AddCompletes : Prop :=
  (∀ (s : State) (d : RegIdx) (src : Src16) (y : Word), isReg16 d = true → src.value s = .ok y →
    AluCompletes16 (binForm .add d src) s d (s.reg16 d + y) (decide (65536 ≤ (s.reg16 d).toNat + y.toNat))
      (decide (((s.reg16 d).toNat + y.toNat) % 65536 = 0))) ∧
  (∀ (s : State) (d : RegIdx) (src : Src8) (y : Byte), isReg8 d = true → src.value s = .ok y →
    AluCompletes8 (binbForm .add d src) s d (s.reg8 d + y) (decide (256 ≤ (s.reg8 d).toNat + y.toNat))
      (decide (((s.reg8 d).toNat + y.toNat) % 256 = 0)))

/-- SUB and SUBB, every form: the difference modulo 2^N, CARRY on a borrow, ZERO when the operands are equal (40_alu R163, R173; 42_arithmetic R240 to
R247). -/
def Obligations.SubCompletes : Prop :=
  (∀ (s : State) (d : RegIdx) (src : Src16) (y : Word), isReg16 d = true → src.value s = .ok y →
    AluCompletes16 (binForm .sub d src) s d (s.reg16 d - y) (decide ((s.reg16 d).toNat < y.toNat)) (decide (s.reg16 d = y))) ∧
  (∀ (s : State) (d : RegIdx) (src : Src8) (y : Byte), isReg8 d = true → src.value s = .ok y →
    AluCompletes8 (binbForm .sub d src) s d (s.reg8 d - y) (decide ((s.reg8 d).toNat < y.toNat)) (decide (s.reg8 d = y)))

/-- CMP and CMPB, every form: the flags of the subtraction and no other change but IP (40_alu R163, R173; 42_arithmetic R252 to R259). -/
def Obligations.CompareCompletes : Prop :=
  (∀ (s : State) (d : RegIdx) (src : Src16) (y : Word), isReg16 d = true → src.value s = .ok y →
    ∃ t, exec (cmpForm d src) s = .next t ∧ t.carry = decide ((s.reg16 d).toNat < y.toNat) ∧ t.zero = decide (s.reg16 d = y) ∧
      t.ip = s.ip + BitVec.ofNat 16 (cmpForm d src).size ∧ Only16 [] s t ∧ OnlySrBits [2, 3] s t ∧ SameMemory s t ∧ SameDevices s t ∧
      t.stepError = none) ∧
  (∀ (s : State) (d : RegIdx) (src : Src8) (y : Byte), isReg8 d = true → src.value s = .ok y →
    ∃ t, exec (cmpbForm d src) s = .next t ∧ t.carry = decide ((s.reg8 d).toNat < y.toNat) ∧ t.zero = decide (s.reg8 d = y) ∧
      t.ip = s.ip + BitVec.ofNat 16 (cmpbForm d src).size ∧ Only16 [] s t ∧ OnlySrBits [2, 3] s t ∧ SameMemory s t ∧ SameDevices s t ∧
      t.stepError = none)

/-- INC, INCB, DEC, DECB, NOT and NOTB: INC and DEC write CARRY at the top of the range and at 0, NOT clears it (40_alu R162, R163, R169;
42_arithmetic R248 to R251; 43_logic_shift R315, R316). -/
def Obligations.UnaryCompletes : Prop :=
  (∀ (s : State) (r : RegIdx), isReg16 r = true →
    AluCompletes16 (unForm .inc r) s r (s.reg16 r + 1) (decide (s.reg16 r = 0xFFFF)) (decide (s.reg16 r = 0xFFFF)) ∧
      AluCompletes16 (unForm .dec r) s r (s.reg16 r - 1) (decide (s.reg16 r = 0)) (decide (s.reg16 r = 1)) ∧
      AluCompletes16 (unForm .not r) s r (~~~ s.reg16 r) false (decide (s.reg16 r = 0xFFFF))) ∧
  (∀ (s : State) (r : RegIdx), isReg8 r = true →
    AluCompletes8 (unbForm .inc r) s r (s.reg8 r + 1) (decide (s.reg8 r = 0xFF)) (decide (s.reg8 r = 0xFF)) ∧
      AluCompletes8 (unbForm .dec r) s r (s.reg8 r - 1) (decide (s.reg8 r = 0)) (decide (s.reg8 r = 1)) ∧
      AluCompletes8 (unbForm .not r) s r (~~~ s.reg8 r) false (decide (s.reg8 r = 0xFF)))

/-- MUL and MULB, every form: A or AL takes the low half of the product, CARRY when the high half is lost (40_alu R164; 42_arithmetic R260 to R267). -/
def Obligations.MulCompletes : Prop :=
  (∀ (s : State) (src : Src16) (y : Word), src.value s = .ok y →
    AluCompletes16 (mulForm src) s 0 (s.a * y) (decide (65536 ≤ s.a.toNat * y.toNat)) (decide ((s.a.toNat * y.toNat) % 65536 = 0))) ∧
  (∀ (s : State) (src : Src8) (y : Byte), src.value s = .ok y →
    AluCompletes8 (mulbForm src) s 10 (s.reg8 10 * y) (decide (256 ≤ (s.reg8 10).toNat * y.toNat))
      (decide (((s.reg8 10).toNat * y.toNat) % 256 = 0)))

/-- DIV and DIVB, every form, with a divisor that is not 0: A or AL takes the quotient, CARRY is cleared, ZERO when the dividend is below
the divisor (40_alu R165; 42_arithmetic R268 to R275). -/
def Obligations.DivCompletes : Prop :=
  (∀ (s : State) (src : Src16) (y : Word), src.value s = .ok y → y ≠ 0 →
    AluCompletes16 (divForm src) s 0 (BitVec.ofNat 16 (s.a.toNat / y.toNat)) false (decide (s.a.toNat < y.toNat))) ∧
  (∀ (s : State) (src : Src8) (y : Byte), src.value s = .ok y → y ≠ 0 →
    AluCompletes8 (divbForm src) s 10 (BitVec.ofNat 8 ((s.reg8 10).toNat / y.toNat)) false (decide ((s.reg8 10).toNat < y.toNat)))

/-- DIV and DIVB by 0 raise DivideByZero and write nothing (40_alu R172; 42_arithmetic R268 to R275). -/
def Obligations.DivideByZeroRaises : Prop :=
  (∀ (s : State) (src : Src16), src.value s = .ok 0 → exec (divForm src) s = .next (takeException .divideByZero s)) ∧
  (∀ (s : State) (src : Src8), src.value s = .ok 0 → exec (divbForm src) s = .next (takeException .divideByZero s))

/-- AND, ANDB, OR, ORB, XOR and XORB, every form: bit by bit, CARRY cleared (40_alu R166 to R168; 43_logic_shift R291 to R314). -/
def Obligations.BitwiseCompletes : Prop :=
  (∀ (s : State) (d : RegIdx) (src : Src16) (y : Word), isReg16 d = true → src.value s = .ok y →
    AluCompletes16 (binForm .and d src) s d (s.reg16 d &&& y) false (decide (s.reg16 d &&& y = 0)) ∧
      AluCompletes16 (binForm .or d src) s d (s.reg16 d ||| y) false (decide (s.reg16 d = 0 ∧ y = 0)) ∧
      AluCompletes16 (binForm .xor d src) s d (s.reg16 d ^^^ y) false (decide (s.reg16 d = y))) ∧
  (∀ (s : State) (d : RegIdx) (src : Src8) (y : Byte), isReg8 d = true → src.value s = .ok y →
    AluCompletes8 (binbForm .and d src) s d (s.reg8 d &&& y) false (decide (s.reg8 d &&& y = 0)) ∧
      AluCompletes8 (binbForm .or d src) s d (s.reg8 d ||| y) false (decide (s.reg8 d = 0 ∧ y = 0)) ∧
      AluCompletes8 (binbForm .xor d src) s d (s.reg8 d ^^^ y) false (decide (s.reg8 d = y)))

/-- SHL, SHLB, SHR and SHRB, every form and every count, none reduced modulo the width: a left shift loses bits into CARRY, a right shift
clears CARRY (40_alu R170, R171; 43_logic_shift R317 to R332). -/
def Obligations.ShiftCompletes : Prop :=
  (∀ (s : State) (d : RegIdx) (src : Src16) (y : Word), isReg16 d = true → src.value s = .ok y →
    AluCompletes16 (binForm .shl d src) s d (BitVec.ofNat 16 ((s.reg16 d).toNat * 2 ^ y.toNat))
        (decide (65536 ≤ (s.reg16 d).toNat * 2 ^ y.toNat)) (decide (((s.reg16 d).toNat * 2 ^ y.toNat) % 65536 = 0)) ∧
      AluCompletes16 (binForm .shr d src) s d (BitVec.ofNat 16 ((s.reg16 d).toNat / 2 ^ y.toNat)) false
        (decide ((s.reg16 d).toNat < 2 ^ y.toNat))) ∧
  (∀ (s : State) (d : RegIdx) (src : Src8) (y : Byte), isReg8 d = true → src.value s = .ok y →
    AluCompletes8 (binbForm .shl d src) s d (BitVec.ofNat 8 ((s.reg8 d).toNat * 2 ^ y.toNat))
        (decide (256 ≤ (s.reg8 d).toNat * 2 ^ y.toNat)) (decide (((s.reg8 d).toNat * 2 ^ y.toNat) % 256 = 0)) ∧
      AluCompletes8 (binbForm .shr d src) s d (BitVec.ofNat 8 ((s.reg8 d).toNat / 2 ^ y.toNat)) false
        (decide ((s.reg8 d).toNat < 2 ^ y.toNat)))

/-! ### Control transfer and the stack -/

/-- JMP, JC, JNC, JZ, JNZ, JA and JNA, both forms: IP takes the immediate, or the register plus the offset modulo 65536, when the condition
holds, and else moves by 3; nothing else changes (44_control_transfer R340 to R355). -/
def Obligations.JumpCompletes : Prop :=
  ∀ (s : State) (cond : Cond),
    (∀ v : Word, exec (jumpForm cond (.absolute v)) s =
      .next { s with ip := if cond.holds s then v else s.ip + 3, stepError := none }) ∧
    (∀ m : RegAddr, isReg16 m.base = true → exec (jumpForm cond (.indexed m)) s =
      .next { s with ip := if cond.holds s then s.reg16 m.base + m.offset.signExtend 16 else s.ip + 3, stepError := none })

/-- CALL, both forms: the address of the next instruction is pushed on the active stack and IP takes the target, computed before the push. RET
pops the word on top of the active stack into IP. Neither changes anything else (44_control_transfer R356 to R358). -/
def Obligations.CallAndRetComplete : Prop :=
  (∀ (s : State) (target : Target) (v : Word), target.resolve s = .ok v → Writable s ((s.sp.toNat : Int) - 1) 2 →
    ∃ t, exec (callForm target) s = .next t ∧ t.ip = v ∧ t.sp = s.sp - 2 ∧ t.wordAt ((s.sp.toNat : Int) - 1) = s.ip + 3 ∧
      SameMemoryOutside ((s.sp.toNat : Int) - 1) 2 s t ∧ Only16 [4] s t ∧ t.sr = s.sr ∧ SameDevices s t ∧ t.stepError = none) ∧
  (∀ s : State, Readable s ((s.sp.toNat : Int) + 1) 2 →
    ∃ t, exec .ret s = .next t ∧ t.ip = s.wordAt ((s.sp.toNat : Int) + 1) ∧ t.sp = s.sp + 2 ∧ Only16 [4] s t ∧ t.sr = s.sr ∧
      SameMemory s t ∧ SameDevices s t ∧ t.stepError = none)

/-- PUSH and PUSHB, every form: the value read before the push goes to the active stack, SP falls by 2 or 1, and nothing else changes but IP
(20_memory R93, R94; 45_stack R366 to R373). -/
def Obligations.PushCompletes : Prop :=
  (∀ (s : State) (src : Src16) (v : Word), src.value s = .ok v → Writable s ((s.sp.toNat : Int) - 1) 2 →
    ∃ t, exec (pushForm src) s = .next t ∧ t.wordAt ((s.sp.toNat : Int) - 1) = v ∧ t.sp = s.sp - 2 ∧
      SameMemoryOutside ((s.sp.toNat : Int) - 1) 2 s t ∧ t.ip = s.ip + BitVec.ofNat 16 (pushForm src).size ∧ Only16 [4] s t ∧ t.sr = s.sr ∧
      SameDevices s t ∧ t.stepError = none) ∧
  (∀ (s : State) (src : Src8) (v : Byte), src.value s = .ok v → Writable s (s.sp.toNat : Int) 1 →
    ∃ t, exec (pushbForm src) s = .next t ∧ t.byteAt (s.sp.toNat : Int) = v ∧ t.sp = s.sp - 1 ∧
      SameMemoryOutside (s.sp.toNat : Int) 1 s t ∧ t.ip = s.ip + BitVec.ofNat 16 (pushbForm src).size ∧ Only16 [4] s t ∧ t.sr = s.sr ∧
      SameDevices s t ∧ t.stepError = none)

/-- POP and POPB: SP rises, then the register is written, so POP SP leaves the popped word; nothing else changes but IP (20_memory R95, R96;
45_stack R374, R375). -/
def Obligations.PopCompletes : Prop :=
  (∀ (s : State) (r : RegIdx), isReg16 r = true → Readable s ((s.sp.toNat : Int) + 1) 2 →
    ∃ t, exec (.popR16 r) s = .next t ∧ t.reg16 r = s.wordAt ((s.sp.toNat : Int) + 1) ∧ (r ≠ 4 → t.sp = s.sp + 2) ∧
      t.ip = s.ip + 2 ∧ Only16 [r, 4] s t ∧ t.sr = s.sr ∧ SameMemory s t ∧ SameDevices s t ∧ t.stepError = none) ∧
  (∀ (s : State) (r : RegIdx), isReg8 r = true → Readable s ((s.sp.toNat : Int) + 1) 1 →
    ∃ t, exec (.popbR8 r) s = .next t ∧ t.reg8 r = s.byteAt ((s.sp.toNat : Int) + 1) ∧ t.sp = s.sp + 1 ∧
      t.ip = s.ip + 2 ∧ (∀ q : RegIdx, isReg8 q = true → q ≠ r → t.reg8 q = s.reg8 q) ∧ OtherSpSame s t ∧ t.sr = s.sr ∧
      SameMemory s t ∧ SameDevices s t ∧ t.stepError = none)

/-! ### System -/

/-- HLT in either mode, CLI and STI in supervisor mode: one bit of SR, IP past the instruction, nothing else (46_system R381 to R383). -/
def Obligations.HltCliStiComplete : Prop :=
  (∀ s : State, exec .hlt s = .next { s with sr := s.sr ||| 0x0001, ip := s.ip + 1, stepError := none }) ∧
    (∀ s : State, s.supervisor = true →
      exec .cli s = .next { s with sr := s.sr &&& 0xFFEF, ip := s.ip + 1, stepError := none } ∧
        exec .sti s = .next { s with sr := s.sr ||| 0x0010, ip := s.ip + 1, stepError := none })

/-- IRET in supervisor mode: IP, SP and SR come from the three words on the supervisor stack, SR whole; the SP word goes to the stack pointer
that the restored SR names, and SSP else keeps its value after the pops (46_system R384, 60_exceptions R495). -/
def Obligations.IretRestores : Prop :=
  ∀ s : State, s.supervisor = true → s.cfg.memSize ≤ 65536 → s.ssp.toNat + 6 < s.cfg.memSize →
    let x : Int := (s.ssp.toNat : Int)
    let sr := s.wordAt (x + 5)
    exec .iret s = .next
      { s with
        ip := s.wordAt (x + 1)
        sr := sr
        usp := if sr.getLsbD 15 then s.usp else s.wordAt (x + 3)
        ssp := if sr.getLsbD 15 then s.wordAt (x + 3) else s.ssp + 6
        stepError := none }

/-- SVC in user mode enters the system-call vector with SR, USP and IP + 1 on the supervisor stack, and changes nothing else but
SR.SUPERVISOR (46_system R385, 60_exceptions R485, R488). -/
def Obligations.SvcEnters : Prop :=
  ∀ s : State, s.supervisor = false → FrameFits s 3 →
    ∃ t, exec .svc s = .next t ∧ Entered [s.sr, s.usp, s.ip + 1] 6 [15] s t

/-- IN, every form, in supervisor mode, from an I/O address that has a register: A takes its value and nothing else changes but IP
(46_system R386 to R389). -/
def Obligations.InReadsTheDevice : Prop :=
  ∀ (s : State) (src : Src16) (io v : Word), s.supervisor = true → src.value s = .ok io → ioRead s io = some v →
    exec (inForm src) s = .next { s with a := v, ip := s.ip + BitVec.ofNat 16 (inForm src).size, stepError := none }

/-- OUT, every form, in supervisor mode, to each register that can be written: IRQMASK, IRQEOI, TMRPRELOAD and the read-write registers of
`EXT_IO`; nothing else changes but IP (46_system R390 to R393, 60_exceptions R498, R500, R521). -/
def Obligations.OutWritesTheDevice : Prop :=
  ∀ (s : State) (src : Src16) (io : Word), s.cfg.wf = true → s.supervisor = true → src.value s = .ok io →
    let next := s.ip + BitVec.ofNat 16 (outForm src).size
    (io = 0 → exec (outForm src) s = .next { s with icMask := s.a, ip := next, stepError := none }) ∧
    (io = 2 → exec (outForm src) s =
      .next { s with icEoi := s.a, icStatus := (s.icStatus &&& ~~~s.a) ||| s.icLevel, ip := next, stepError := none }) ∧
    (io = s.cfg.ioTmrPreload → exec (outForm src) s =
      .next { s with tmrPreload := s.a, tmrCounter := s.a, tmrState := .preloaded, ip := next, stepError := none }) ∧
    (∀ r ∈ s.cfg.extIo, io = r.addr → r.perm = .rw →
      ∃ l, exec (outForm src) s = .next { s with extIo := l, ip := next, stepError := none } ∧
        l.map Prod.fst = s.extIo.map Prod.fst ∧ (io ∈ s.extIo.map Prod.fst → extLookup l io = some s.a) ∧
        (∀ y, y ≠ io → extLookup l y = extLookup s.extIo y))

/-- What IN finds at each I/O address, and the I/O addresses where IN or OUT raises MemoryAccessError with that address (20_memory R100 to R102;
60_exceptions R497 to R500, R521, R522). -/
def Obligations.IoSpace : Prop :=
  ∀ s : State, s.cfg.wf = true →
    ioRead s 0 = some s.icMask ∧ ioRead s 1 = some s.icStatus ∧ ioRead s 2 = some s.icEoi ∧
    ioRead s s.cfg.ioTmrPreload = some s.tmrPreload ∧ ioRead s s.cfg.ioTmrCounter = some s.tmrCounter ∧
    (∀ r ∈ s.cfg.extIo, ∀ v, extLookup s.extIo r.addr = some v → ioRead s r.addr = some v) ∧
    (∀ (src : Src16) (io : Word), s.supervisor = true → src.value s = .ok io →
      (io ∉ s.cfg.ioAddresses →
        exec (inForm src) s = .next (takeException (.memoryAccess (io.toNat : Int)) s) ∧
          exec (outForm src) s = .next (takeException (.memoryAccess (io.toNat : Int)) s)) ∧
      ((io = 1 ∨ io = s.cfg.ioTmrCounter ∨ ∃ r ∈ s.cfg.extIo, r.addr = io ∧ r.perm = .ro) →
        exec (outForm src) s = .next (takeException (.memoryAccess (io.toNat : Int)) s)))

/-! ### What raises -/

/-- A register byte outside the class its format asks for, or an illegal base register, raises IllegalInstruction, in every instruction and
in either mode (30_encoding R126 to R128, R133). -/
def Obligations.IllegalRegisterBytesRaise : Prop :=
  ∀ (i : Instr) (s : State), i.wf = false → exec i s = .next (takeException .illegalInstruction s)

/-- CLI, STI, IRET, IN and OUT raise IllegalInstruction in user mode, SVC does in supervisor mode (46_system R380, 60_exceptions R510). -/
def Obligations.PrivilegeChecks : Prop :=
  (∀ (i : Instr) (s : State), privileged i = true → s.supervisor = false → exec i s = .next (takeException .illegalInstruction s)) ∧
    (∀ s : State, s.supervisor = true → exec .svc s = .next (takeException .illegalInstruction s))

/-- An instruction whose source operand cannot be read raises what the read raises, before it writes anything (30_encoding R130, 60_exceptions R472,
R473). -/
def Obligations.FailingSourceRaises : Prop :=
  (∀ (s : State) (src : Src16) (e : Exc), src.value s = .error e →
    (∀ d : RegIdx, isReg16 d = true → exec (movForm d src) s = .next (takeException e s) ∧
      exec (cmpForm d src) s = .next (takeException e s) ∧ ∀ op : BinOp, exec (binForm op d src) s = .next (takeException e s)) ∧
    exec (mulForm src) s = .next (takeException e s) ∧ exec (divForm src) s = .next (takeException e s) ∧
    exec (pushForm src) s = .next (takeException e s) ∧
    (s.supervisor = true → exec (inForm src) s = .next (takeException e s) ∧ exec (outForm src) s = .next (takeException e s))) ∧
  (∀ (s : State) (src : Src8) (e : Exc), src.value s = .error e →
    (∀ d : RegIdx, isReg8 d = true → exec (movbForm d src) s = .next (takeException e s) ∧
      exec (cmpbForm d src) s = .next (takeException e s) ∧ ∀ op : BinOp, exec (binbForm op d src) s = .next (takeException e s)) ∧
    exec (mulbForm src) s = .next (takeException e s) ∧ exec (divbForm src) s = .next (takeException e s) ∧
    exec (pushbForm src) s = .next (takeException e s))

/-- A store to memory that fails its checks raises MemoryAccessError with the failing address: the lower byte's when that byte cannot be
written, else the other's (20_memory R85, R87, R91; 41_data_movement). -/
def Obligations.FailingStoreRaises : Prop :=
  ∀ (s : State) (o : MemOperand) (x : Int), o.address s = .ok x →
    (∀ i : Instr, ((∃ r, isReg16 r = true ∧ i = movStoreReg o r) ∨ ∃ v, i = movStoreImm o v) →
      (¬ Writable s x 1 → exec i s = .next (takeException (.memoryAccess x) s)) ∧
      (Writable s x 1 → ¬ Writable s (x + 1) 1 → exec i s = .next (takeException (.memoryAccess (x + 1)) s))) ∧
    (∀ i : Instr, ((∃ r, isReg8 r = true ∧ i = movbStoreReg o r) ∨ ∃ v, i = movbStoreImm o v) →
      ¬ Writable s x 1 → exec i s = .next (takeException (.memoryAccess x) s))

/-- A push or pop that fails its checks raises StackAccessError: PUSH, PUSHB, POP, POPB, CALL, RET and IRET (20_memory R97). -/
def Obligations.FailingStackAccessRaises : Prop :=
  ∀ s : State,
    (¬ Writable s ((s.sp.toNat : Int) - 1) 2 →
      (∀ (src : Src16) (v : Word), src.value s = .ok v → exec (pushForm src) s = .next (takeException .stackAccess s)) ∧
      (∀ (target : Target) (v : Word), target.resolve s = .ok v → exec (callForm target) s = .next (takeException .stackAccess s))) ∧
    (¬ Writable s (s.sp.toNat : Int) 1 →
      ∀ (src : Src8) (v : Byte), src.value s = .ok v → exec (pushbForm src) s = .next (takeException .stackAccess s)) ∧
    (¬ Readable s ((s.sp.toNat : Int) + 1) 2 →
      (∀ r : RegIdx, isReg16 r = true → exec (.popR16 r) s = .next (takeException .stackAccess s)) ∧
      exec .ret s = .next (takeException .stackAccess s)) ∧
    (s.supervisor = true → s.cfg.memSize ≤ 65536 → s.cfg.memSize ≤ s.ssp.toNat + 6 →
      exec .iret s = .next (takeException .stackAccess s)) ∧
    (¬ Readable s ((s.sp.toNat : Int) + 1) 1 →
      ∀ r : RegIdx, isReg8 r = true → exec (.popbR8 r) s = .next (takeException .stackAccess s))

/-! ### Exceptions and interrupts -/

/-- An exception in supervisor mode sets SR.FAULT and changes nothing else, whatever instruction raised it; the step ends there, without a
tick (60_exceptions R472, R491). The error stands in the model's own field `stepError` (log 4). -/
def Obligations.SupervisorExceptionIsFatalAndPrecise : Prop :=
  (∀ (e : Exc) (s : State), s.supervisor = true → takeException e s = { s with sr := s.sr ||| 0x0002, stepError := some e }) ∧
    (∀ (s t : State) (i : Instr) (e : Exc), s.supervisor = true → s.faulted = false → s.halted = false → fetchDecode s = .ok i →
      exec i s = .next t → t.stepError = some e → step s = .next { s with sr := s.sr ||| 0x0002, stepError := some e }) ∧
    (∀ (s : State) (e : Exc), s.supervisor = true → s.faulted = false → s.halted = false → fetchDecode s = .error e →
      step s = .next { s with sr := s.sr ||| 0x0002, stepError := some e })

/-- An exception in user mode builds its frame and enters the exception vector; no register, flag, or byte outside the frame changes but SSP
and SR.SUPERVISOR (60_exceptions R470, R471, R485, R489, R490). -/
def Obligations.ExceptionFrame : Prop :=
  ∀ s : State, s.supervisor = false →
    (∀ (x : Int), FrameFits s 5 →
      Entered [s.sr, s.usp, s.ip, BitVec.ofInt 16 x, 2] 9 [15] s (takeException (.memoryAccess x) s)) ∧
    (∀ (e : Exc) (code : Word), FrameFits s 4 →
      ((e = .divideByZero ∧ code = 0) ∨ (e = .instructionFetch ∧ code = 1) ∨ (e = .unknownOpcode ∧ code = 3) ∨
        (e = .illegalInstruction ∧ code = 4) ∨ (e = .stackAccess ∧ code = 5)) →
      Entered [s.sr, s.usp, s.ip, code] 9 [15] s (takeException e s))

/-- A frame that does not fit puts the machine in FAULT and nothing else of the entry stands; the error is the exception itself, or
StackAccessError for an SVC or an interrupt (60_exceptions R486, R492), in the model's own field `stepError` (log 4). -/
def Obligations.UnbuildableFrameIsFatal : Prop :=
  ∀ s : State,
    (∀ (e : Exc), s.supervisor = false → ¬ FrameFits s (match e with | .memoryAccess _ => 5 | _ => 4) →
      takeException e s = { s with sr := s.sr ||| 0x0002, stepError := some e }) ∧
    (s.supervisor = false → ¬ FrameFits s 3 → exec .svc s = .next { s with sr := s.sr ||| 0x0002, stepError := some .stackAccess }) ∧
    (s.faulted = false → s.irqIn = true → s.irqEnabled = true → ¬ FrameFits s 3 →
      recogniseInterrupt s = { s with sr := s.sr ||| 0x0002, stepError := some .stackAccess })

/-- The interrupt check: nothing in FAULT, without a request, or with SR.IRQMASK clear; else HALT is cleared, SR, SP and IP of the
interrupted code are pushed, and the machine is in supervisor mode at address 3 with SR.IRQMASK clear. One check enters at most once; it is made
at the end of every step that is not in FAULT after its instruction or trap entry, of a halted one too, and of every line call (60_exceptions R475, R480, R487, R490). -/
def Obligations.InterruptRecognition : Prop :=
  ∀ s : State,
    ((s.faulted = true ∨ s.icStatus &&& s.icMask = 0 ∨ s.irqEnabled = false) → recogniseInterrupt s = s) ∧
    (s.faulted = false → s.icStatus &&& s.icMask ≠ 0 → s.irqEnabled = true → FrameFits s 3 →
      Entered [s.sr &&& 0xFFFE, s.sp, s.ip] 3 [0, 4, 15] s (recogniseInterrupt s) ∧
        (recogniseInterrupt s).halted = false ∧ (recogniseInterrupt s).irqEnabled = false) ∧
    recogniseInterrupt (recogniseInterrupt s) = recogniseInterrupt s ∧
    (s.faulted = false → s.halted = true → ∃ report, step s = .next (recogniseInterrupt (tick { s with stepError := report }))) ∧
    (∀ (i : Instr) (t : State), s.faulted = false → s.halted = false → fetchDecode s = .ok i → exec i s = .next t → t.faulted = false →
      step s = .next (recogniseInterrupt (tick t))) ∧
    (∀ e : Exc, s.faulted = false → s.halted = false → fetchDecode s = .error e → (takeException e s).faulted = false →
      step s = .next (recogniseInterrupt (tick (takeException e s)))) ∧
    (∀ (call : HostCall) (n : Nat), (call = .raiseLine n ∨ call = .lowerLine n ∨ call = .triggerLine n) → n < 16 → s.faulted = false →
      ∃ t, t.sr = s.sr ∧ t.icMask = s.icMask ∧ (hostCall call s).1 = recogniseInterrupt t)

/-- What an entry leaves in the model's own error report (the field `stepError`, log 4): an SVC entry and an exception entry from user mode
leave none, an interrupt entry leaves it as it was (60_exceptions R475, 70_reset_and_hazards R561). -/
def Obligations.EntriesReportNoError : Prop :=
  ∀ s : State,
    (s.supervisor = false → FrameFits s 3 → ∃ t, exec .svc s = .next t ∧ t.stepError = none) ∧
    (∀ (e : Exc), s.supervisor = false → FrameFits s (match e with | .memoryAccess _ => 5 | _ => 4) →
      (takeException e s).stepError = none ∧ (takeException e s).faulted = s.faulted) ∧
    (s.faulted = false → s.icStatus &&& s.icMask ≠ 0 → s.irqEnabled = true → FrameFits s 3 →
      (recogniseInterrupt s).stepError = s.stepError ∧ (recogniseInterrupt s).faulted = false)

/-- One tick of the timer in each of its states (60_exceptions R520, R523), a halted or faulted machine's too: that a depletion then sets line 1's
pending bit is the model's reading (logs 12 and 20). -/
def Obligations.TimerTick : Prop :=
  ∀ s : State,
    (s.tmrState = .reset → tick s = s) ∧
    (s.tmrState = .preloaded → tick s = { s with tmrState := .running }) ∧
    (s.tmrState = .running → s.tmrCounter = 1 →
      tick s = { s with tmrCounter := 0, tmrState := .depleted, icStatus := s.icStatus ||| 0x0002 }) ∧
    (s.tmrState = .running → s.tmrCounter ≠ 1 → tick s = { s with tmrCounter := s.tmrCounter - 1 }) ∧
    (s.tmrState = .depleted → tick s = { s with tmrCounter := s.tmrPreload, tmrState := .running })

/-- With a preload of p, not 0, a running timer just reloaded is depleted after p ticks, not before, with line 1 pending, and running and
reloaded again after p + 1: the period is p + 1 ticks (60_exceptions R523; in an ended run and in FAULT, logs 12
and 20). -/
def Obligations.TimerPeriod : Prop :=
  ∀ s : State, s.tmrState = .running → s.tmrCounter = s.tmrPreload → s.tmrPreload ≠ 0 →
    (∀ k : Nat, k < s.tmrPreload.toNat → tick^[k] s = { s with tmrCounter := s.tmrPreload - BitVec.ofNat 16 k }) ∧
    tick^[s.tmrPreload.toNat] s = { s with tmrCounter := 0, tmrState := .depleted, icStatus := s.icStatus ||| 0x0002 } ∧
    tick^[s.tmrPreload.toNat + 1] s = { s with icStatus := s.icStatus ||| 0x0002 }

/-! ### Whole-machine rules -/

/-- The invariant holds at reset. -/
def Obligations.InvariantAtReset : Prop := State.reset.Inv

/-- Every step keeps the invariant: valid parameters, canonical memory inside its bounds, the declared `EXT_IO` registers, an error report
only in FAULT, the timer's states, and every asserted line pending (`State.Inv`). -/
def Obligations.StepKeepsTheInvariant : Prop :=
  ∀ s t : State, s.Inv → step s = .next t → t.Inv

/-- Every host call keeps the invariant (70_reset_and_hazards R560). -/
def Obligations.HostCallsKeepTheInvariant : Prop :=
  ∀ (s : State) (call : HostCall), s.Inv → (hostCall call s).1.Inv

/-- A cell is read-only exactly when it lies in a region whose permission is RO, both ends of the region included; the parameters never change,
and a read-only byte never does, whatever steps (00_scope R12, 20_memory R82, R104). -/
def Obligations.StepKeepsReadOnlyMemory : Prop :=
  (∀ (c : Config) (x : Int),
      Config.permAt c x = .ro ↔ ∃ r ∈ c.regions, r.perm = .ro ∧ (r.start : Int) ≤ x ∧ x ≤ (r.stop : Int)) ∧
    ∀ s t : State, step s = .next t →
      t.cfg = s.cfg ∧ ∀ n : Nat, Config.permAt s.cfg (n : Int) = .ro → t.mem.read n = s.mem.read n

/-- Only IRET leaves supervisor mode, and user mode is left only for one of the three trap vectors (10_state R48, 60_exceptions R511). -/
def Obligations.ModeChangesOnlyByTrapAndIret : Prop :=
  ∀ s t : State, step s = .next t →
    (s.supervisor = true → t.supervisor = false → s.halted = false ∧ fetchDecode s = .ok .iret) ∧
    (s.supervisor = false → t.supervisor = true → t.ip = 3 ∨ t.ip = 6 ∨ t.ip = 9)

/-- Supervisor-mode instructions other than IRET leave USP, user-mode instructions that do not trap leave SSP, and a step never changes
SR bits 14 to 5 but by IRET (10_state R35, R49). -/
def Obligations.StackPointersAreIndependent : Prop :=
  ∀ (i : Instr) (s t : State), exec i s = .next t →
    (s.supervisor = true → i ≠ .iret → t.usp = s.usp) ∧
    (s.supervisor = false → t.supervisor = false → t.ssp = s.ssp) ∧
    (s.supervisor = false → t.supervisor = true → t.usp = s.usp) ∧
    (i ≠ .iret → ∀ n : Nat, 5 ≤ n → n ≤ 14 → t.sr.getLsbD n = s.sr.getLsbD n)

/-- ZERO and CARRY are written by the ALU instructions and IRET alone, and by none that raises (10_state R44). -/
def Obligations.FlagsAreWrittenByTheAluAndIret : Prop :=
  ∀ (i : Instr) (s t : State), exec i s = .next t →
    ((writesFlags i = false ∧ i ≠ .iret) → t.zero = s.zero ∧ t.carry = s.carry) ∧
    (∀ e : Exc, t = takeException e s → t.zero = s.zero ∧ t.carry = s.carry)

/-- User-mode instructions neither read nor write a device: with other contents of the interrupt controller, the timer and the `EXT_IO`
registers, the same instruction gives the same next state but for those contents, which stay as they were (60_exceptions R510). -/
def Obligations.UserInstructionsDoNotTouchDevices : Prop :=
  ∀ (i : Instr) (s : State) (m st lv eoi pre cnt : Word) (ts : TimerState) (ext : List (Word × Word)), s.supervisor = false →
    let other := fun q : State =>
      { q with
        icMask := m
        icStatus := st
        icLevel := lv
        icEoi := eoi
        tmrState := ts
        tmrPreload := pre
        tmrCounter := cnt
        extIo := ext }
    ∃ t, exec i s = .next t ∧ SameDevices s t ∧ exec i (other s) = .next (other t)

/-- A run that has ended normally stays ended: each further step changes nothing but what the timer's tick writes, which is the timer's words
and, when it depletes the timer, line 1's pending bit (70_reset_and_hazards R580, 60_exceptions R523, log 12). -/
def Obligations.EndedRunStaysEnded : Prop :=
  ∀ s : State, s.Inv → s.faulted = false → s.endedNormally = true →
    ∃ t, step s = .next t ∧ t.endedNormally = true ∧ t.faulted = false ∧ t.tmrPreload = s.tmrPreload ∧
      (t.icStatus = s.icStatus ∨ (t.tmrState = .depleted ∧ t.icStatus = s.icStatus ||| 0x0002)) ∧
      t = { s with tmrState := t.tmrState, tmrCounter := t.tmrCounter, icStatus := t.icStatus, stepError := none }

/-! ### The host and the assembler -/

/-- `reset()` gives the power-on values and keeps the parameters (10_state R60, R61; 70_reset_and_hazards R550, R551). -/
def Obligations.ResetValues : Prop :=
  ∀ s : State,
    let t := (hostCall .reset s).1
    t.cfg = s.cfg ∧ t.a = 0 ∧ t.b = 0 ∧ t.c = 0 ∧ t.d = 0 ∧ t.usp = 0 ∧ t.ssp = 0 ∧ t.ip = 0 ∧ t.sr = 0x8000 ∧
      (∀ n : Nat, t.mem.read n = 0x00) ∧ t.icMask = 0 ∧ t.icStatus = 0 ∧ t.icLevel = 0 ∧ t.icEoi = 0 ∧ t.tmrState = .reset ∧
      t.tmrPreload = 0 ∧ t.tmrCounter = 0 ∧
      (s.cfg.wf = true → ∀ r ∈ s.cfg.extIo, extLookup t.extIo r.addr = some r.resetValue)

/-- The line entry points: refused in FAULT and for a line that is not 0 to 15, with no change; else the level and the pending bit move as
the entry point says, and the interrupt check follows (60_exceptions R493, R501). -/
def Obligations.LineCalls : Prop :=
  ∀ (s : State) (n : Nat),
    (s.faulted = true ∨ 16 ≤ n →
      (hostCall (.raiseLine n) s).1 = s ∧ (hostCall (.lowerLine n) s).1 = s ∧ (hostCall (.triggerLine n) s).1 = s) ∧
    (s.faulted = false → s.stepError = none → n < 16 →
      (hostCall (.raiseLine n) s).1 = recogniseInterrupt
        { s with icLevel := s.icLevel ||| BitVec.ofNat 16 (2 ^ n), icStatus := s.icStatus ||| BitVec.ofNat 16 (2 ^ n) } ∧
      (hostCall (.lowerLine n) s).1 = recogniseInterrupt { s with icLevel := s.icLevel &&& ~~~ BitVec.ofNat 16 (2 ^ n) } ∧
      (hostCall (.triggerLine n) s).1 = recogniseInterrupt { s with icStatus := s.icStatus ||| BitVec.ofNat 16 (2 ^ n) })

/-- `LoadImage` writes byte i of the image to address i, read-only cells included, and changes nothing else; an image longer than memory
changes nothing (20_memory R105). The forms of the report, `imageTooLong` and `completed`, are the model's (log 18). -/
def Obligations.LoadImageWrites : Prop :=
  ∀ (s : State) (image : List Byte),
    (s.cfg.memSize < image.length → hostCall (.loadImage image) s = (s, .imageTooLong)) ∧
    (image.length ≤ s.cfg.memSize → ∃ t, hostCall (.loadImage image) s = (t, .completed) ∧ t = { s with mem := t.mem } ∧
      (∀ (k : Nat) (h : k < image.length), t.mem.read k = image[k]) ∧
      (∀ k : Nat, image.length ≤ k → t.mem.read k = s.mem.read k))

/-- From the mnemonic and the operands of any instruction the assembler emits exactly the bytes of its encoding: the row is found from the
mnemonic and the operand classes alone (49_assembler R420, R440 to R442, R445; 30_encoding R135). -/
def Obligations.AssemblerEmitsTheEncoding : Prop :=
  ∀ (i : Instr) (line : Nat) (row : Row), findRow i.opcode registry = some row →
    emitInstruction line row.mnemonic (i.operands.map asmOperand) = .ok ((encode i).map Slot.byte)
end

