-- ==== Sys2Proof/Laws/Fields.lean ====
section
/-! SUPPORT. Laws of the bit and byte helpers, and the named bits of SR after each write to one of them. -/

namespace Sys2Proof

theorem setBit_getLsbD (w : Word) (k : Nat) (v : Bool) (hk : k < 16) (n : Nat) :
    (setBit w k v).getLsbD n = if n = k then v else w.getLsbD n := by
  by_cases hn : n < 16
  · cases v <;> by_cases h : n = k <;> simp [setBit, h, hn, hk]
  · have : n ≠ k := by omega
    simp [this, BitVec.getLsbD_of_ge _ n (by omega : 16 ≤ n)]

@[simp] theorem setBit_self (w : Word) (k : Nat) (v : Bool) (hk : k < 16) : (setBit w k v).getLsbD k = v := by
  simp [setBit_getLsbD w k v hk]

theorem setBit_other (w : Word) (k : Nat) (v : Bool) (n : Nat) (h : n ≠ k) : (setBit w k v).getLsbD n = w.getLsbD n := by
  by_cases hn : n < 16
  · cases v <;> simp [setBit, h, hn]
  · simp [BitVec.getLsbD_of_ge _ n (by omega : 16 ≤ n)]

/-- The bits of a word after one of them was written, in simp's spelling. -/
@[simp] theorem setBit_getElem (w : Word) (k : Nat) (v : Bool) (n : Nat) (hn : n < 16) :
    (setBit w k v)[n] = if n = k then v else w[n] := by
  rw [← BitVec.getLsbD_eq_getElem, ← BitVec.getLsbD_eq_getElem]
  by_cases h : n = k
  · subst h; simp [setBit_getLsbD w n v hn]
  · simp only [h, if_false]; exact setBit_other w k v n h

/-- Setting a bit to the value it has changes nothing. -/
theorem setBit_same (w : Word) (k : Nat) (hk : k < 16) : setBit w k (w.getLsbD k) = w := by
  apply BitVec.eq_of_getLsbD_eq
  intro n _
  rw [setBit_getLsbD w k _ hk]
  split
  · next h => rw [h]
  · rfl

@[simp] theorem hiByte_joinBytes (p q : Byte) : hiByte (joinBytes p q) = p := by
  apply BitVec.eq_of_getLsbD_eq
  intro n hn
  have h : ¬ 8 + n < 8 := by omega
  simp only [hiByte, joinBytes, BitVec.getLsbD_extractLsb', BitVec.getLsbD_append, hn, h, decide_true, Bool.true_and, if_false]
  congr 1
  omega

@[simp] theorem loByte_joinBytes (p q : Byte) : loByte (joinBytes p q) = q := by
  apply BitVec.eq_of_getLsbD_eq
  intro n hn
  have h : 0 + n = n := by omega
  simp only [loByte, joinBytes, BitVec.getLsbD_extractLsb', BitVec.getLsbD_append, hn, h, decide_true, Bool.true_and, if_true]

@[simp] theorem joinBytes_hi_lo (w : Word) : joinBytes (hiByte w) (loByte w) = w := by
  simp only [hiByte, loByte, joinBytes]
  apply BitVec.eq_of_getLsbD_eq
  intro n hn
  simp only [BitVec.getLsbD_append, BitVec.getLsbD_extractLsb']
  by_cases h : n < 8
  · simp [h]
  · simp only [h, decide_false]
    have h1 : n - 8 < 8 := by omega
    have h2 : 8 + (n - 8) = n := by omega
    simp [h1, h2]

theorem joinBytes_toNat (p q : Byte) : (joinBytes p q).toNat = p.toNat * 256 + q.toNat := by
  have := q.isLt
  simp only [joinBytes, BitVec.toNat_append]
  rw [Nat.shiftLeft_eq, Nat.mul_comm, ← Nat.two_pow_add_eq_or_of_lt this]

@[simp] theorem hiByte_withHiByte (p : Word) (v : Byte) : hiByte (withHiByte p v) = v := by simp [withHiByte]
@[simp] theorem loByte_withHiByte (p : Word) (v : Byte) : loByte (withHiByte p v) = loByte p := by simp [withHiByte]
@[simp] theorem hiByte_withLoByte (p : Word) (v : Byte) : hiByte (withLoByte p v) = hiByte p := by simp [withLoByte]
@[simp] theorem loByte_withLoByte (p : Word) (v : Byte) : loByte (withLoByte p v) = v := by simp [withLoByte]

/-- Two words with the same bytes are the same word. -/
theorem eq_of_bytes (v w : Word) (h : hiByte v = hiByte w) (l : loByte v = loByte w) : v = w := by
  rw [← joinBytes_hi_lo v, ← joinBytes_hi_lo w, h, l]

end Sys2Proof
end

