-- ==== Sys2Proof/Laws/State.lean ====
section
/-! SUPPORT. What each update of the state leaves in each field, so that no proof unfolds a record update. -/

namespace Sys2Proof.Machine

/-! ### `State.setHalted` -/

@[simp] theorem State.setHalted_cfg (s : State) (v : Bool) : (s.setHalted v).cfg = s.cfg := rfl
@[simp] theorem State.setHalted_a (s : State) (v : Bool) : (s.setHalted v).a = s.a := rfl
@[simp] theorem State.setHalted_b (s : State) (v : Bool) : (s.setHalted v).b = s.b := rfl
@[simp] theorem State.setHalted_c (s : State) (v : Bool) : (s.setHalted v).c = s.c := rfl
@[simp] theorem State.setHalted_d (s : State) (v : Bool) : (s.setHalted v).d = s.d := rfl
@[simp] theorem State.setHalted_usp (s : State) (v : Bool) : (s.setHalted v).usp = s.usp := rfl
@[simp] theorem State.setHalted_ssp (s : State) (v : Bool) : (s.setHalted v).ssp = s.ssp := rfl
@[simp] theorem State.setHalted_ip (s : State) (v : Bool) : (s.setHalted v).ip = s.ip := rfl
@[simp] theorem State.setHalted_sr (s : State) (v : Bool) : (s.setHalted v).sr = setBit s.sr 0 v := rfl
@[simp] theorem State.setHalted_mem (s : State) (v : Bool) : (s.setHalted v).mem = s.mem := rfl
@[simp] theorem State.setHalted_icMask (s : State) (v : Bool) : (s.setHalted v).icMask = s.icMask := rfl
@[simp] theorem State.setHalted_icStatus (s : State) (v : Bool) : (s.setHalted v).icStatus = s.icStatus := rfl
@[simp] theorem State.setHalted_icLevel (s : State) (v : Bool) : (s.setHalted v).icLevel = s.icLevel := rfl
@[simp] theorem State.setHalted_icEoi (s : State) (v : Bool) : (s.setHalted v).icEoi = s.icEoi := rfl
@[simp] theorem State.setHalted_tmrState (s : State) (v : Bool) : (s.setHalted v).tmrState = s.tmrState := rfl
@[simp] theorem State.setHalted_tmrPreload (s : State) (v : Bool) : (s.setHalted v).tmrPreload = s.tmrPreload := rfl
@[simp] theorem State.setHalted_tmrCounter (s : State) (v : Bool) : (s.setHalted v).tmrCounter = s.tmrCounter := rfl
@[simp] theorem State.setHalted_extIo (s : State) (v : Bool) : (s.setHalted v).extIo = s.extIo := rfl
@[simp] theorem State.setHalted_stepError (s : State) (v : Bool) : (s.setHalted v).stepError = s.stepError := rfl

/-! ### `State.setFaulted` -/

@[simp] theorem State.setFaulted_cfg (s : State) (v : Bool) : (s.setFaulted v).cfg = s.cfg := rfl
@[simp] theorem State.setFaulted_a (s : State) (v : Bool) : (s.setFaulted v).a = s.a := rfl
@[simp] theorem State.setFaulted_b (s : State) (v : Bool) : (s.setFaulted v).b = s.b := rfl
@[simp] theorem State.setFaulted_c (s : State) (v : Bool) : (s.setFaulted v).c = s.c := rfl
@[simp] theorem State.setFaulted_d (s : State) (v : Bool) : (s.setFaulted v).d = s.d := rfl
@[simp] theorem State.setFaulted_usp (s : State) (v : Bool) : (s.setFaulted v).usp = s.usp := rfl
@[simp] theorem State.setFaulted_ssp (s : State) (v : Bool) : (s.setFaulted v).ssp = s.ssp := rfl
@[simp] theorem State.setFaulted_ip (s : State) (v : Bool) : (s.setFaulted v).ip = s.ip := rfl
@[simp] theorem State.setFaulted_sr (s : State) (v : Bool) : (s.setFaulted v).sr = setBit s.sr 1 v := rfl
@[simp] theorem State.setFaulted_mem (s : State) (v : Bool) : (s.setFaulted v).mem = s.mem := rfl
@[simp] theorem State.setFaulted_icMask (s : State) (v : Bool) : (s.setFaulted v).icMask = s.icMask := rfl
@[simp] theorem State.setFaulted_icStatus (s : State) (v : Bool) : (s.setFaulted v).icStatus = s.icStatus := rfl
@[simp] theorem State.setFaulted_icLevel (s : State) (v : Bool) : (s.setFaulted v).icLevel = s.icLevel := rfl
@[simp] theorem State.setFaulted_icEoi (s : State) (v : Bool) : (s.setFaulted v).icEoi = s.icEoi := rfl
@[simp] theorem State.setFaulted_tmrState (s : State) (v : Bool) : (s.setFaulted v).tmrState = s.tmrState := rfl
@[simp] theorem State.setFaulted_tmrPreload (s : State) (v : Bool) : (s.setFaulted v).tmrPreload = s.tmrPreload := rfl
@[simp] theorem State.setFaulted_tmrCounter (s : State) (v : Bool) : (s.setFaulted v).tmrCounter = s.tmrCounter := rfl
@[simp] theorem State.setFaulted_extIo (s : State) (v : Bool) : (s.setFaulted v).extIo = s.extIo := rfl
@[simp] theorem State.setFaulted_stepError (s : State) (v : Bool) : (s.setFaulted v).stepError = s.stepError := rfl

/-! ### `State.setIrqEnabled` -/

@[simp] theorem State.setIrqEnabled_cfg (s : State) (v : Bool) : (s.setIrqEnabled v).cfg = s.cfg := rfl
@[simp] theorem State.setIrqEnabled_a (s : State) (v : Bool) : (s.setIrqEnabled v).a = s.a := rfl
@[simp] theorem State.setIrqEnabled_b (s : State) (v : Bool) : (s.setIrqEnabled v).b = s.b := rfl
@[simp] theorem State.setIrqEnabled_c (s : State) (v : Bool) : (s.setIrqEnabled v).c = s.c := rfl
@[simp] theorem State.setIrqEnabled_d (s : State) (v : Bool) : (s.setIrqEnabled v).d = s.d := rfl
@[simp] theorem State.setIrqEnabled_usp (s : State) (v : Bool) : (s.setIrqEnabled v).usp = s.usp := rfl
@[simp] theorem State.setIrqEnabled_ssp (s : State) (v : Bool) : (s.setIrqEnabled v).ssp = s.ssp := rfl
@[simp] theorem State.setIrqEnabled_ip (s : State) (v : Bool) : (s.setIrqEnabled v).ip = s.ip := rfl
@[simp] theorem State.setIrqEnabled_sr (s : State) (v : Bool) : (s.setIrqEnabled v).sr = setBit s.sr 4 v := rfl
@[simp] theorem State.setIrqEnabled_mem (s : State) (v : Bool) : (s.setIrqEnabled v).mem = s.mem := rfl
@[simp] theorem State.setIrqEnabled_icMask (s : State) (v : Bool) : (s.setIrqEnabled v).icMask = s.icMask := rfl
@[simp] theorem State.setIrqEnabled_icStatus (s : State) (v : Bool) : (s.setIrqEnabled v).icStatus = s.icStatus := rfl
@[simp] theorem State.setIrqEnabled_icLevel (s : State) (v : Bool) : (s.setIrqEnabled v).icLevel = s.icLevel := rfl
@[simp] theorem State.setIrqEnabled_icEoi (s : State) (v : Bool) : (s.setIrqEnabled v).icEoi = s.icEoi := rfl
@[simp] theorem State.setIrqEnabled_tmrState (s : State) (v : Bool) : (s.setIrqEnabled v).tmrState = s.tmrState := rfl
@[simp] theorem State.setIrqEnabled_tmrPreload (s : State) (v : Bool) : (s.setIrqEnabled v).tmrPreload = s.tmrPreload := rfl
@[simp] theorem State.setIrqEnabled_tmrCounter (s : State) (v : Bool) : (s.setIrqEnabled v).tmrCounter = s.tmrCounter := rfl
@[simp] theorem State.setIrqEnabled_extIo (s : State) (v : Bool) : (s.setIrqEnabled v).extIo = s.extIo := rfl
@[simp] theorem State.setIrqEnabled_stepError (s : State) (v : Bool) : (s.setIrqEnabled v).stepError = s.stepError := rfl

/-! ### `State.setSupervisor` -/

@[simp] theorem State.setSupervisor_cfg (s : State) (v : Bool) : (s.setSupervisor v).cfg = s.cfg := rfl
@[simp] theorem State.setSupervisor_a (s : State) (v : Bool) : (s.setSupervisor v).a = s.a := rfl
@[simp] theorem State.setSupervisor_b (s : State) (v : Bool) : (s.setSupervisor v).b = s.b := rfl
@[simp] theorem State.setSupervisor_c (s : State) (v : Bool) : (s.setSupervisor v).c = s.c := rfl
@[simp] theorem State.setSupervisor_d (s : State) (v : Bool) : (s.setSupervisor v).d = s.d := rfl
@[simp] theorem State.setSupervisor_usp (s : State) (v : Bool) : (s.setSupervisor v).usp = s.usp := rfl
@[simp] theorem State.setSupervisor_ssp (s : State) (v : Bool) : (s.setSupervisor v).ssp = s.ssp := rfl
@[simp] theorem State.setSupervisor_ip (s : State) (v : Bool) : (s.setSupervisor v).ip = s.ip := rfl
@[simp] theorem State.setSupervisor_sr (s : State) (v : Bool) : (s.setSupervisor v).sr = setBit s.sr 15 v := rfl
@[simp] theorem State.setSupervisor_mem (s : State) (v : Bool) : (s.setSupervisor v).mem = s.mem := rfl
@[simp] theorem State.setSupervisor_icMask (s : State) (v : Bool) : (s.setSupervisor v).icMask = s.icMask := rfl
@[simp] theorem State.setSupervisor_icStatus (s : State) (v : Bool) : (s.setSupervisor v).icStatus = s.icStatus := rfl
@[simp] theorem State.setSupervisor_icLevel (s : State) (v : Bool) : (s.setSupervisor v).icLevel = s.icLevel := rfl
@[simp] theorem State.setSupervisor_icEoi (s : State) (v : Bool) : (s.setSupervisor v).icEoi = s.icEoi := rfl
@[simp] theorem State.setSupervisor_tmrState (s : State) (v : Bool) : (s.setSupervisor v).tmrState = s.tmrState := rfl
@[simp] theorem State.setSupervisor_tmrPreload (s : State) (v : Bool) : (s.setSupervisor v).tmrPreload = s.tmrPreload := rfl
@[simp] theorem State.setSupervisor_tmrCounter (s : State) (v : Bool) : (s.setSupervisor v).tmrCounter = s.tmrCounter := rfl
@[simp] theorem State.setSupervisor_extIo (s : State) (v : Bool) : (s.setSupervisor v).extIo = s.extIo := rfl
@[simp] theorem State.setSupervisor_stepError (s : State) (v : Bool) : (s.setSupervisor v).stepError = s.stepError := rfl

/-! ### `State.setFlags` -/

@[simp] theorem State.setFlags_cfg (s : State) (x z : Bool) : (s.setFlags x z).cfg = s.cfg := rfl
@[simp] theorem State.setFlags_a (s : State) (x z : Bool) : (s.setFlags x z).a = s.a := rfl
@[simp] theorem State.setFlags_b (s : State) (x z : Bool) : (s.setFlags x z).b = s.b := rfl
@[simp] theorem State.setFlags_c (s : State) (x z : Bool) : (s.setFlags x z).c = s.c := rfl
@[simp] theorem State.setFlags_d (s : State) (x z : Bool) : (s.setFlags x z).d = s.d := rfl
@[simp] theorem State.setFlags_usp (s : State) (x z : Bool) : (s.setFlags x z).usp = s.usp := rfl
@[simp] theorem State.setFlags_ssp (s : State) (x z : Bool) : (s.setFlags x z).ssp = s.ssp := rfl
@[simp] theorem State.setFlags_ip (s : State) (x z : Bool) : (s.setFlags x z).ip = s.ip := rfl
@[simp] theorem State.setFlags_sr (s : State) (x z : Bool) : (s.setFlags x z).sr = setBit (setBit s.sr 3 x) 2 z := rfl
@[simp] theorem State.setFlags_mem (s : State) (x z : Bool) : (s.setFlags x z).mem = s.mem := rfl
@[simp] theorem State.setFlags_icMask (s : State) (x z : Bool) : (s.setFlags x z).icMask = s.icMask := rfl
@[simp] theorem State.setFlags_icStatus (s : State) (x z : Bool) : (s.setFlags x z).icStatus = s.icStatus := rfl
@[simp] theorem State.setFlags_icLevel (s : State) (x z : Bool) : (s.setFlags x z).icLevel = s.icLevel := rfl
@[simp] theorem State.setFlags_icEoi (s : State) (x z : Bool) : (s.setFlags x z).icEoi = s.icEoi := rfl
@[simp] theorem State.setFlags_tmrState (s : State) (x z : Bool) : (s.setFlags x z).tmrState = s.tmrState := rfl
@[simp] theorem State.setFlags_tmrPreload (s : State) (x z : Bool) : (s.setFlags x z).tmrPreload = s.tmrPreload := rfl
@[simp] theorem State.setFlags_tmrCounter (s : State) (x z : Bool) : (s.setFlags x z).tmrCounter = s.tmrCounter := rfl
@[simp] theorem State.setFlags_extIo (s : State) (x z : Bool) : (s.setFlags x z).extIo = s.extIo := rfl
@[simp] theorem State.setFlags_stepError (s : State) (x z : Bool) : (s.setFlags x z).stepError = s.stepError := rfl

/-! ### `State.advance` -/

@[simp] theorem State.advance_cfg (s : State) (k : Nat) : (s.advance k).cfg = s.cfg := rfl
@[simp] theorem State.advance_a (s : State) (k : Nat) : (s.advance k).a = s.a := rfl
@[simp] theorem State.advance_b (s : State) (k : Nat) : (s.advance k).b = s.b := rfl
@[simp] theorem State.advance_c (s : State) (k : Nat) : (s.advance k).c = s.c := rfl
@[simp] theorem State.advance_d (s : State) (k : Nat) : (s.advance k).d = s.d := rfl
@[simp] theorem State.advance_usp (s : State) (k : Nat) : (s.advance k).usp = s.usp := rfl
@[simp] theorem State.advance_ssp (s : State) (k : Nat) : (s.advance k).ssp = s.ssp := rfl
@[simp] theorem State.advance_ip (s : State) (k : Nat) : (s.advance k).ip = s.ip + BitVec.ofNat 16 k := rfl
@[simp] theorem State.advance_sr (s : State) (k : Nat) : (s.advance k).sr = s.sr := rfl
@[simp] theorem State.advance_mem (s : State) (k : Nat) : (s.advance k).mem = s.mem := rfl
@[simp] theorem State.advance_icMask (s : State) (k : Nat) : (s.advance k).icMask = s.icMask := rfl
@[simp] theorem State.advance_icStatus (s : State) (k : Nat) : (s.advance k).icStatus = s.icStatus := rfl
@[simp] theorem State.advance_icLevel (s : State) (k : Nat) : (s.advance k).icLevel = s.icLevel := rfl
@[simp] theorem State.advance_icEoi (s : State) (k : Nat) : (s.advance k).icEoi = s.icEoi := rfl
@[simp] theorem State.advance_tmrState (s : State) (k : Nat) : (s.advance k).tmrState = s.tmrState := rfl
@[simp] theorem State.advance_tmrPreload (s : State) (k : Nat) : (s.advance k).tmrPreload = s.tmrPreload := rfl
@[simp] theorem State.advance_tmrCounter (s : State) (k : Nat) : (s.advance k).tmrCounter = s.tmrCounter := rfl
@[simp] theorem State.advance_extIo (s : State) (k : Nat) : (s.advance k).extIo = s.extIo := rfl
@[simp] theorem State.advance_stepError (s : State) (k : Nat) : (s.advance k).stepError = s.stepError := rfl

/-! ### `State.clearError` -/

@[simp] theorem State.clearError_cfg (s : State) : (s.clearError).cfg = s.cfg := rfl
@[simp] theorem State.clearError_a (s : State) : (s.clearError).a = s.a := rfl
@[simp] theorem State.clearError_b (s : State) : (s.clearError).b = s.b := rfl
@[simp] theorem State.clearError_c (s : State) : (s.clearError).c = s.c := rfl
@[simp] theorem State.clearError_d (s : State) : (s.clearError).d = s.d := rfl
@[simp] theorem State.clearError_usp (s : State) : (s.clearError).usp = s.usp := rfl
@[simp] theorem State.clearError_ssp (s : State) : (s.clearError).ssp = s.ssp := rfl
@[simp] theorem State.clearError_ip (s : State) : (s.clearError).ip = s.ip := rfl
@[simp] theorem State.clearError_sr (s : State) : (s.clearError).sr = s.sr := rfl
@[simp] theorem State.clearError_mem (s : State) : (s.clearError).mem = s.mem := rfl
@[simp] theorem State.clearError_icMask (s : State) : (s.clearError).icMask = s.icMask := rfl
@[simp] theorem State.clearError_icStatus (s : State) : (s.clearError).icStatus = s.icStatus := rfl
@[simp] theorem State.clearError_icLevel (s : State) : (s.clearError).icLevel = s.icLevel := rfl
@[simp] theorem State.clearError_icEoi (s : State) : (s.clearError).icEoi = s.icEoi := rfl
@[simp] theorem State.clearError_tmrState (s : State) : (s.clearError).tmrState = s.tmrState := rfl
@[simp] theorem State.clearError_tmrPreload (s : State) : (s.clearError).tmrPreload = s.tmrPreload := rfl
@[simp] theorem State.clearError_tmrCounter (s : State) : (s.clearError).tmrCounter = s.tmrCounter := rfl
@[simp] theorem State.clearError_extIo (s : State) : (s.clearError).extIo = s.extIo := rfl
@[simp] theorem State.clearError_stepError (s : State) : (s.clearError).stepError = none := rfl

/-! ### `State.poke` -/

@[simp] theorem State.poke_cfg (s : State) (x : Int) (v : Byte) : (s.poke x v).cfg = s.cfg := rfl
@[simp] theorem State.poke_a (s : State) (x : Int) (v : Byte) : (s.poke x v).a = s.a := rfl
@[simp] theorem State.poke_b (s : State) (x : Int) (v : Byte) : (s.poke x v).b = s.b := rfl
@[simp] theorem State.poke_c (s : State) (x : Int) (v : Byte) : (s.poke x v).c = s.c := rfl
@[simp] theorem State.poke_d (s : State) (x : Int) (v : Byte) : (s.poke x v).d = s.d := rfl
@[simp] theorem State.poke_usp (s : State) (x : Int) (v : Byte) : (s.poke x v).usp = s.usp := rfl
@[simp] theorem State.poke_ssp (s : State) (x : Int) (v : Byte) : (s.poke x v).ssp = s.ssp := rfl
@[simp] theorem State.poke_ip (s : State) (x : Int) (v : Byte) : (s.poke x v).ip = s.ip := rfl
@[simp] theorem State.poke_sr (s : State) (x : Int) (v : Byte) : (s.poke x v).sr = s.sr := rfl
@[simp] theorem State.poke_mem (s : State) (x : Int) (v : Byte) : (s.poke x v).mem = s.mem.write x.toNat v := rfl
@[simp] theorem State.poke_icMask (s : State) (x : Int) (v : Byte) : (s.poke x v).icMask = s.icMask := rfl
@[simp] theorem State.poke_icStatus (s : State) (x : Int) (v : Byte) : (s.poke x v).icStatus = s.icStatus := rfl
@[simp] theorem State.poke_icLevel (s : State) (x : Int) (v : Byte) : (s.poke x v).icLevel = s.icLevel := rfl
@[simp] theorem State.poke_icEoi (s : State) (x : Int) (v : Byte) : (s.poke x v).icEoi = s.icEoi := rfl
@[simp] theorem State.poke_tmrState (s : State) (x : Int) (v : Byte) : (s.poke x v).tmrState = s.tmrState := rfl
@[simp] theorem State.poke_tmrPreload (s : State) (x : Int) (v : Byte) : (s.poke x v).tmrPreload = s.tmrPreload := rfl
@[simp] theorem State.poke_tmrCounter (s : State) (x : Int) (v : Byte) : (s.poke x v).tmrCounter = s.tmrCounter := rfl
@[simp] theorem State.poke_extIo (s : State) (x : Int) (v : Byte) : (s.poke x v).extIo = s.extIo := rfl
@[simp] theorem State.poke_stepError (s : State) (x : Int) (v : Byte) : (s.poke x v).stepError = s.stepError := rfl

/-! ### `State.setSp` -/

@[simp] theorem State.setSp_cfg (s : State) (v : Word) : (s.setSp v).cfg = s.cfg := by
  unfold State.setSp; split <;> rfl
@[simp] theorem State.setSp_a (s : State) (v : Word) : (s.setSp v).a = s.a := by
  unfold State.setSp; split <;> rfl
@[simp] theorem State.setSp_b (s : State) (v : Word) : (s.setSp v).b = s.b := by
  unfold State.setSp; split <;> rfl
@[simp] theorem State.setSp_c (s : State) (v : Word) : (s.setSp v).c = s.c := by
  unfold State.setSp; split <;> rfl
@[simp] theorem State.setSp_d (s : State) (v : Word) : (s.setSp v).d = s.d := by
  unfold State.setSp; split <;> rfl
@[simp] theorem State.setSp_usp (s : State) (v : Word) : (s.setSp v).usp = if s.supervisor then s.usp else v := by
  unfold State.setSp; split <;> rfl
@[simp] theorem State.setSp_ssp (s : State) (v : Word) : (s.setSp v).ssp = if s.supervisor then v else s.ssp := by
  unfold State.setSp; split <;> rfl
@[simp] theorem State.setSp_ip (s : State) (v : Word) : (s.setSp v).ip = s.ip := by
  unfold State.setSp; split <;> rfl
@[simp] theorem State.setSp_sr (s : State) (v : Word) : (s.setSp v).sr = s.sr := by
  unfold State.setSp; split <;> rfl
@[simp] theorem State.setSp_mem (s : State) (v : Word) : (s.setSp v).mem = s.mem := by
  unfold State.setSp; split <;> rfl
@[simp] theorem State.setSp_icMask (s : State) (v : Word) : (s.setSp v).icMask = s.icMask := by
  unfold State.setSp; split <;> rfl
@[simp] theorem State.setSp_icStatus (s : State) (v : Word) : (s.setSp v).icStatus = s.icStatus := by
  unfold State.setSp; split <;> rfl
@[simp] theorem State.setSp_icLevel (s : State) (v : Word) : (s.setSp v).icLevel = s.icLevel := by
  unfold State.setSp; split <;> rfl
@[simp] theorem State.setSp_icEoi (s : State) (v : Word) : (s.setSp v).icEoi = s.icEoi := by
  unfold State.setSp; split <;> rfl
@[simp] theorem State.setSp_tmrState (s : State) (v : Word) : (s.setSp v).tmrState = s.tmrState := by
  unfold State.setSp; split <;> rfl
@[simp] theorem State.setSp_tmrPreload (s : State) (v : Word) : (s.setSp v).tmrPreload = s.tmrPreload := by
  unfold State.setSp; split <;> rfl
@[simp] theorem State.setSp_tmrCounter (s : State) (v : Word) : (s.setSp v).tmrCounter = s.tmrCounter := by
  unfold State.setSp; split <;> rfl
@[simp] theorem State.setSp_extIo (s : State) (v : Word) : (s.setSp v).extIo = s.extIo := by
  unfold State.setSp; split <;> rfl
@[simp] theorem State.setSp_stepError (s : State) (v : Word) : (s.setSp v).stepError = s.stepError := by
  unfold State.setSp; split <;> rfl

/-! ### `State.setReg16` -/

@[simp] theorem State.setReg16_cfg (s : State) (i : RegIdx) (v : Word) : (s.setReg16 i v).cfg = s.cfg := by
  unfold State.setReg16; split <;> simp
@[simp] theorem State.setReg16_ip (s : State) (i : RegIdx) (v : Word) : (s.setReg16 i v).ip = s.ip := by
  unfold State.setReg16; split <;> simp
@[simp] theorem State.setReg16_sr (s : State) (i : RegIdx) (v : Word) : (s.setReg16 i v).sr = s.sr := by
  unfold State.setReg16; split <;> simp
@[simp] theorem State.setReg16_mem (s : State) (i : RegIdx) (v : Word) : (s.setReg16 i v).mem = s.mem := by
  unfold State.setReg16; split <;> simp
@[simp] theorem State.setReg16_icMask (s : State) (i : RegIdx) (v : Word) : (s.setReg16 i v).icMask = s.icMask := by
  unfold State.setReg16; split <;> simp
@[simp] theorem State.setReg16_icStatus (s : State) (i : RegIdx) (v : Word) : (s.setReg16 i v).icStatus = s.icStatus := by
  unfold State.setReg16; split <;> simp
@[simp] theorem State.setReg16_icLevel (s : State) (i : RegIdx) (v : Word) : (s.setReg16 i v).icLevel = s.icLevel := by
  unfold State.setReg16; split <;> simp
@[simp] theorem State.setReg16_icEoi (s : State) (i : RegIdx) (v : Word) : (s.setReg16 i v).icEoi = s.icEoi := by
  unfold State.setReg16; split <;> simp
@[simp] theorem State.setReg16_tmrState (s : State) (i : RegIdx) (v : Word) : (s.setReg16 i v).tmrState = s.tmrState := by
  unfold State.setReg16; split <;> simp
@[simp] theorem State.setReg16_tmrPreload (s : State) (i : RegIdx) (v : Word) : (s.setReg16 i v).tmrPreload = s.tmrPreload := by
  unfold State.setReg16; split <;> simp
@[simp] theorem State.setReg16_tmrCounter (s : State) (i : RegIdx) (v : Word) : (s.setReg16 i v).tmrCounter = s.tmrCounter := by
  unfold State.setReg16; split <;> simp
@[simp] theorem State.setReg16_extIo (s : State) (i : RegIdx) (v : Word) : (s.setReg16 i v).extIo = s.extIo := by
  unfold State.setReg16; split <;> simp
@[simp] theorem State.setReg16_stepError (s : State) (i : RegIdx) (v : Word) : (s.setReg16 i v).stepError = s.stepError := by
  unfold State.setReg16; split <;> simp

/-! ### `State.setReg8` -/

@[simp] theorem State.setReg8_cfg (s : State) (i : RegIdx) (v : Byte) : (s.setReg8 i v).cfg = s.cfg := by
  unfold State.setReg8; split <;> simp
@[simp] theorem State.setReg8_usp (s : State) (i : RegIdx) (v : Byte) : (s.setReg8 i v).usp = s.usp := by
  unfold State.setReg8; split <;> rfl
@[simp] theorem State.setReg8_ssp (s : State) (i : RegIdx) (v : Byte) : (s.setReg8 i v).ssp = s.ssp := by
  unfold State.setReg8; split <;> rfl
@[simp] theorem State.setReg8_ip (s : State) (i : RegIdx) (v : Byte) : (s.setReg8 i v).ip = s.ip := by
  unfold State.setReg8; split <;> simp
@[simp] theorem State.setReg8_sr (s : State) (i : RegIdx) (v : Byte) : (s.setReg8 i v).sr = s.sr := by
  unfold State.setReg8; split <;> simp
@[simp] theorem State.setReg8_mem (s : State) (i : RegIdx) (v : Byte) : (s.setReg8 i v).mem = s.mem := by
  unfold State.setReg8; split <;> simp
@[simp] theorem State.setReg8_icMask (s : State) (i : RegIdx) (v : Byte) : (s.setReg8 i v).icMask = s.icMask := by
  unfold State.setReg8; split <;> simp
@[simp] theorem State.setReg8_icStatus (s : State) (i : RegIdx) (v : Byte) : (s.setReg8 i v).icStatus = s.icStatus := by
  unfold State.setReg8; split <;> simp
@[simp] theorem State.setReg8_icLevel (s : State) (i : RegIdx) (v : Byte) : (s.setReg8 i v).icLevel = s.icLevel := by
  unfold State.setReg8; split <;> simp
@[simp] theorem State.setReg8_icEoi (s : State) (i : RegIdx) (v : Byte) : (s.setReg8 i v).icEoi = s.icEoi := by
  unfold State.setReg8; split <;> simp
@[simp] theorem State.setReg8_tmrState (s : State) (i : RegIdx) (v : Byte) : (s.setReg8 i v).tmrState = s.tmrState := by
  unfold State.setReg8; split <;> simp
@[simp] theorem State.setReg8_tmrPreload (s : State) (i : RegIdx) (v : Byte) : (s.setReg8 i v).tmrPreload = s.tmrPreload := by
  unfold State.setReg8; split <;> simp
@[simp] theorem State.setReg8_tmrCounter (s : State) (i : RegIdx) (v : Byte) : (s.setReg8 i v).tmrCounter = s.tmrCounter := by
  unfold State.setReg8; split <;> simp
@[simp] theorem State.setReg8_extIo (s : State) (i : RegIdx) (v : Byte) : (s.setReg8 i v).extIo = s.extIo := by
  unfold State.setReg8; split <;> simp
@[simp] theorem State.setReg8_stepError (s : State) (i : RegIdx) (v : Byte) : (s.setReg8 i v).stepError = s.stepError := by
  unfold State.setReg8; split <;> simp

/-! ### `goToFault` -/

@[simp] theorem goToFault_cfg (e : Exc) (s : State) : (goToFault e s).cfg = s.cfg := rfl
@[simp] theorem goToFault_a (e : Exc) (s : State) : (goToFault e s).a = s.a := rfl
@[simp] theorem goToFault_b (e : Exc) (s : State) : (goToFault e s).b = s.b := rfl
@[simp] theorem goToFault_c (e : Exc) (s : State) : (goToFault e s).c = s.c := rfl
@[simp] theorem goToFault_d (e : Exc) (s : State) : (goToFault e s).d = s.d := rfl
@[simp] theorem goToFault_usp (e : Exc) (s : State) : (goToFault e s).usp = s.usp := rfl
@[simp] theorem goToFault_ssp (e : Exc) (s : State) : (goToFault e s).ssp = s.ssp := rfl
@[simp] theorem goToFault_ip (e : Exc) (s : State) : (goToFault e s).ip = s.ip := rfl
@[simp] theorem goToFault_sr (e : Exc) (s : State) : (goToFault e s).sr = setBit s.sr 1 true := rfl
@[simp] theorem goToFault_mem (e : Exc) (s : State) : (goToFault e s).mem = s.mem := rfl
@[simp] theorem goToFault_icMask (e : Exc) (s : State) : (goToFault e s).icMask = s.icMask := rfl
@[simp] theorem goToFault_icStatus (e : Exc) (s : State) : (goToFault e s).icStatus = s.icStatus := rfl
@[simp] theorem goToFault_icLevel (e : Exc) (s : State) : (goToFault e s).icLevel = s.icLevel := rfl
@[simp] theorem goToFault_icEoi (e : Exc) (s : State) : (goToFault e s).icEoi = s.icEoi := rfl
@[simp] theorem goToFault_tmrState (e : Exc) (s : State) : (goToFault e s).tmrState = s.tmrState := rfl
@[simp] theorem goToFault_tmrPreload (e : Exc) (s : State) : (goToFault e s).tmrPreload = s.tmrPreload := rfl
@[simp] theorem goToFault_tmrCounter (e : Exc) (s : State) : (goToFault e s).tmrCounter = s.tmrCounter := rfl
@[simp] theorem goToFault_extIo (e : Exc) (s : State) : (goToFault e s).extIo = s.extIo := rfl
@[simp] theorem goToFault_stepError (e : Exc) (s : State) : (goToFault e s).stepError = some e := rfl

end Sys2Proof.Machine
end

