-- ==== Sys2Proof/Laws/Flags.lean ====
section
/-! SUPPORT. Norm and the shifts, and the named bits of SR after each operation that writes SR. -/

namespace Sys2Proof.Machine

/-- Normalising a natural number: the low bits, carry when it does not fit, zero when nothing is left (40_alu R161). -/
theorem norm_ofNat (n k : Nat) : norm n (k : Int) =
    { result := BitVec.ofNat n k, carry := decide (2 ^ n ≤ k), zero := decide (BitVec.ofNat n k = 0#n) } := by
  have h : decide ((k : Int) < 0) = false := by simp
  have h2 : decide ((2 : Int) ^ n ≤ (k : Int)) = decide (2 ^ n ≤ k) := by
    apply decide_eq_decide.mpr
    exact_mod_cast Iff.rfl
  simp [norm, h, h2]

/-- R170's formula: the count is not cut. -/
theorem aluShl_eq_norm {n : Nat} (x count : BitVec n) : aluShl x count = norm n ((x.toNat * 2 ^ count.toNat : Nat) : Int) := by
  rw [aluShl, norm_ofNat, norm_ofNat]
  rcases Nat.lt_or_ge count.toNat n with h | h
  · simp [Nat.min_eq_left (Nat.le_of_lt h)]
  · rw [Nat.min_eq_right h]
    have hr : BitVec.ofNat n (x.toNat * 2 ^ count.toNat) = BitVec.ofNat n (x.toNat * 2 ^ n) := by
      apply BitVec.eq_of_toNat_eq
      simp only [BitVec.toNat_ofNat]
      rw [Nat.mul_mod_left, ← Nat.sub_add_cancel h, Nat.pow_add, ← Nat.mul_assoc, Nat.mul_mod_left]
    have hc : (2 ^ n ≤ x.toNat * 2 ^ n) ↔ (2 ^ n ≤ x.toNat * 2 ^ count.toNat) := by
      have hp : 0 < 2 ^ n := Nat.pow_pos (by decide)
      have hp' : 2 ^ n ≤ 2 ^ count.toNat := Nat.pow_le_pow_right (by decide) h
      rcases Nat.eq_zero_or_pos x.toNat with h0 | h0
      · simp [h0]
      · exact ⟨fun _ => le_trans hp' (Nat.le_mul_of_pos_left _ h0), fun _ => Nat.le_mul_of_pos_left _ h0⟩
    rw [hr]
    simp only [hc]

/-- R171's formula: the count is not cut. -/
theorem aluShr_eq_norm {n : Nat} (x count : BitVec n) : aluShr x count = norm n ((x.toNat / 2 ^ count.toNat : Nat) : Int) := by
  rw [aluShr]
  rcases Nat.lt_or_ge count.toNat n with h | h
  · rw [Nat.min_eq_left (Nat.le_of_lt h)]
  · have h1 : x.toNat / 2 ^ n = 0 := Nat.div_eq_of_lt x.isLt
    have h2 : x.toNat / 2 ^ count.toNat = 0 :=
      Nat.div_eq_of_lt (lt_of_lt_of_le x.isLt (Nat.pow_le_pow_right (by decide) h))
    rw [Nat.min_eq_right h, h1, h2]

/-! ### The named bits of SR -/

@[simp] theorem supervisor_setHalted (s : State) (v : Bool) : (s.setHalted v).supervisor = s.supervisor := by
  simp [State.supervisor]
@[simp] theorem supervisor_setFaulted (s : State) (v : Bool) : (s.setFaulted v).supervisor = s.supervisor := by
  simp [State.supervisor]
@[simp] theorem supervisor_setIrqEnabled (s : State) (v : Bool) : (s.setIrqEnabled v).supervisor = s.supervisor := by
  simp [State.supervisor]
@[simp] theorem supervisor_setSupervisor (s : State) (v : Bool) : (s.setSupervisor v).supervisor = v := by
  simp [State.supervisor]
@[simp] theorem supervisor_setFlags (s : State) (x z : Bool) : (s.setFlags x z).supervisor = s.supervisor := by
  simp [State.supervisor]
@[simp] theorem carry_setFlags (s : State) (x z : Bool) : (s.setFlags x z).carry = x := by
  simp [State.carry]
@[simp] theorem zero_setFlags (s : State) (x z : Bool) : (s.setFlags x z).zero = z := by simp [State.zero]
@[simp] theorem faulted_setFaulted (s : State) (v : Bool) : (s.setFaulted v).faulted = v := by simp [State.faulted]
@[simp] theorem faulted_setHalted (s : State) (v : Bool) : (s.setHalted v).faulted = s.faulted := by
  simp [State.faulted]
@[simp] theorem halted_setHalted (s : State) (v : Bool) : (s.setHalted v).halted = v := by simp [State.halted]
@[simp] theorem irqEnabled_setIrqEnabled (s : State) (v : Bool) : (s.setIrqEnabled v).irqEnabled = v := by simp [State.irqEnabled]

/-- Two states with the same SR have the same mode. -/
theorem supervisor_of_sr {s t : State} (h : t.sr = s.sr) : t.supervisor = s.supervisor := by simp [State.supervisor, h]

theorem sr_getLsbD_setFlags (s : State) (x z : Bool) (n : Nat) (h : n ∉ [2, 3]) :
    (s.setFlags x z).sr.getLsbD n = s.sr.getLsbD n := by
  simp only [List.mem_cons, List.not_mem_nil, or_false, not_or] at h
  simp [setBit_other, h.1, h.2]

end Sys2Proof.Machine
end

