-- ==== Sys2Proof/Laws/Alu.lean ====
section
/-! SUPPORT. Each ALU operation in closed form: its result, carry and zero (40_alu R161 to R171). -/

namespace Sys2Proof.Machine

/-- A sum: carry when it reaches 2^n (40_alu R162). -/
theorem aluAdd_eq {n : Nat} (x y : BitVec n) :
    aluAdd x y = ⟨x + y, decide (2^n ≤ x.toNat + y.toNat), decide ((x.toNat + y.toNat) % 2^n = 0)⟩ := by
  have : aluAdd x y = norm n ((x.toNat + y.toNat : Nat) : Int) := by simp [aluAdd]
  rw [this, norm_ofNat]
  have h : BitVec.ofNat n (x.toNat + y.toNat) = x + y := by apply BitVec.eq_of_toNat_eq; simp
  rw [h]; congr 1
  apply decide_eq_decide.mpr
  rw [← BitVec.toNat_inj]; simp

/-- A product: carry when its high half is not 0 (40_alu R164). -/
theorem aluMul_eq {n : Nat} (x y : BitVec n) :
    aluMul x y = ⟨x * y, decide (2^n ≤ x.toNat * y.toNat), decide ((x.toNat * y.toNat) % 2^n = 0)⟩ := by
  have : aluMul x y = norm n ((x.toNat * y.toNat : Nat) : Int) := by simp [aluMul]
  rw [this, norm_ofNat]
  have h : BitVec.ofNat n (x.toNat * y.toNat) = x * y := by apply BitVec.eq_of_toNat_eq; simp
  rw [h]; congr 1
  apply decide_eq_decide.mpr
  rw [← BitVec.toNat_inj]; simp

/-- A difference: carry on a borrow (40_alu R163). -/
theorem aluSub_eq {n : Nat} (x y : BitVec n) : aluSub x y = ⟨x - y, decide (x.toNat < y.toNat), decide (x = y)⟩ := by
  unfold aluSub Sys2Proof.Machine.norm
  have h : BitVec.ofInt n ((x.toNat : Int) - (y.toNat : Int)) = x - y := by
    apply BitVec.eq_of_toInt_eq
    rw [BitVec.toInt_ofInt, BitVec.toInt_sub, BitVec.toInt_eq_toNat_bmod x, BitVec.toInt_eq_toNat_bmod y]
    simp
  rw [h]
  have hx := x.isLt
  have h2 : ¬ ((2:Int)^n ≤ (x.toNat : Int) - (y.toNat : Int)) := by
    have : ((x.toNat : Int)) < (2:Int)^n := by exact_mod_cast hx
    omega
  have h3 : ((x.toNat : Int) - (y.toNat : Int) < 0) ↔ x.toNat < y.toNat := by omega
  have h4 : (x - y = 0#n) ↔ x = y := by
    constructor
    · intro h; have := congrArg (· + y) h; simpa [BitVec.sub_add_cancel] using this
    · rintro rfl; simp
  simp [h2, h3, h4]

/-- A conjunction never carries (40_alu R166). -/
theorem aluAnd_eq {n : Nat} (x y : BitVec n) : aluAnd x y = ⟨x &&& y, false, decide (x &&& y = 0)⟩ := by
  unfold aluAnd; rw [norm_ofNat]
  have h : BitVec.ofNat n (x.toNat &&& y.toNat) = x &&& y := by apply BitVec.eq_of_toNat_eq; rw [← BitVec.toNat_and]; simp
  have h2 : ¬ 2^n ≤ x.toNat &&& y.toNat := by rw [← BitVec.toNat_and]; have := (x &&& y).isLt; omega
  simp only [h, h2]; rfl

/-- A disjunction never carries (40_alu R167). -/
theorem aluOr_eq {n : Nat} (x y : BitVec n) : aluOr x y = ⟨x ||| y, false, decide (x = 0 ∧ y = 0)⟩ := by
  unfold aluOr; rw [norm_ofNat]
  have h : BitVec.ofNat n (x.toNat ||| y.toNat) = x ||| y := by apply BitVec.eq_of_toNat_eq; rw [← BitVec.toNat_or]; simp
  have h2 : ¬ 2^n ≤ x.toNat ||| y.toNat := by rw [← BitVec.toNat_or]; have := (x ||| y).isLt; omega
  simp only [h, h2]; congr 1
  apply decide_eq_decide.mpr
  exact BitVec.or_eq_zero_iff

/-- An exclusive or never carries (40_alu R168). -/
theorem aluXor_eq {n : Nat} (x y : BitVec n) : aluXor x y = ⟨x ^^^ y, false, decide (x = y)⟩ := by
  unfold aluXor; rw [norm_ofNat]
  have h : BitVec.ofNat n (x.toNat ^^^ y.toNat) = x ^^^ y := by apply BitVec.eq_of_toNat_eq; rw [← BitVec.toNat_xor]; simp
  have h2 : ¬ 2^n ≤ x.toNat ^^^ y.toNat := by rw [← BitVec.toNat_xor]; have := (x ^^^ y).isLt; omega
  simp only [h, h2]; congr 1
  apply decide_eq_decide.mpr
  exact BitVec.xor_eq_zero_iff

/-- A left shift: carry when bits are lost (40_alu R170). -/
theorem aluShl_eq {n : Nat} (x y : BitVec n) :
    aluShl x y = ⟨BitVec.ofNat n (x.toNat * 2^y.toNat), decide (2^n ≤ x.toNat * 2 ^ y.toNat),
      decide ((x.toNat * 2 ^ y.toNat) % 2^n = 0)⟩ := by
  rw [aluShl_eq_norm, norm_ofNat]; congr 1
  apply decide_eq_decide.mpr
  rw [← BitVec.toNat_inj]; simp

/-- A right shift never carries (40_alu R171). -/
theorem aluShr_eq {n : Nat} (x y : BitVec n) :
    aluShr x y = ⟨BitVec.ofNat n (x.toNat / 2^y.toNat), false, decide (x.toNat < 2 ^ y.toNat)⟩ := by
  rw [aluShr_eq_norm, norm_ofNat]
  have hle : x.toNat / 2^y.toNat < 2^n := lt_of_le_of_lt (Nat.div_le_self _ _) x.isLt
  have h2 : ¬ 2^n ≤ x.toNat / 2^y.toNat := by omega
  simp only [h2]; congr 1
  apply decide_eq_decide.mpr
  rw [← BitVec.toNat_inj]
  simp only [BitVec.toNat_ofNat, Nat.mod_eq_of_lt hle]
  simp [Nat.div_eq_zero_iff]

/-- A quotient never carries (40_alu R165). -/
theorem aluDiv_eq {n : Nat} (x y : BitVec n) (h : y.toNat ≠ 0) :
    aluDiv x y = some ⟨BitVec.ofNat n (x.toNat / y.toNat), false, decide (x.toNat < y.toNat)⟩ := by
  unfold aluDiv; rw [if_neg h, norm_ofNat]
  have hle : x.toNat / y.toNat < 2^n := lt_of_le_of_lt (Nat.div_le_self _ _) x.isLt
  have h2 : ¬ 2^n ≤ x.toNat / y.toNat := by omega
  simp only [h2]; congr 2
  apply decide_eq_decide.mpr
  rw [← BitVec.toNat_inj]
  simp only [BitVec.toNat_ofNat, Nat.mod_eq_of_lt hle]
  simp [Nat.div_eq_zero_iff, h]

/-- A complement never carries (40_alu R169). -/
theorem aluNot_eq {n : Nat} (x : BitVec n) : aluNot x = ⟨~~~ x, false, decide (x = BitVec.allOnes n)⟩ := by
  unfold aluNot
  have hx := x.isLt
  have e : ((2:Int)^n - 1 - (x.toNat : Int)) = ((2^n - 1 - x.toNat : Nat) : Int) := by
    have : 1 ≤ 2^n := Nat.one_le_two_pow
    push_cast [Nat.cast_sub this, Nat.cast_sub (show x.toNat ≤ 2^n - 1 by omega)]; rfl
  rw [e, norm_ofNat]
  have h : BitVec.ofNat n (2^n - 1 - x.toNat) = ~~~ x := by apply BitVec.eq_of_toNat_eq; rw [BitVec.toNat_ofNat,
    Nat.mod_eq_of_lt (by omega), BitVec.toNat_not]
  have h2 : ¬ 2^n ≤ 2^n - 1 - x.toNat := by omega
  rw [h]; simp only [h2]; congr 1
  apply decide_eq_decide.mpr
  rw [← BitVec.toNat_inj, ← BitVec.toNat_inj]; simp; omega

end Sys2Proof.Machine
end

