-- ==== Sys2Proof/Laws/Decode.lean ====
section
/-! SUPPORT. The reader of each format: what it answers on the bytes of its operands, and what the bytes are whenever it answers
(30_encoding R122 to R125, R128). -/

namespace Sys2Proof

/-- A sequence of readers answers only when its first one does. -/
theorem reader_bind {α β : Type} {x : Except DecodeError α} {f : α → Except DecodeError β} {b : β} (h : (x >>= f) = .ok b) :
    ∃ a, x = .ok a ∧ f a = .ok b := by
  cases x with
  | ok a => exact ⟨a, rfl, h⟩
  | error e => cases h

theorem takeWord_bytes (v : Word) (rest : List Byte) : takeWord (hiByte v :: loByte v :: rest) = .ok (v, rest) := by
  simp [takeWord]

theorem takeRegAddr_bytes (m : RegAddr) (rest : List Byte) (h : isReg16 m.base = true) :
    takeRegAddr (m.offset :: m.base :: rest) = .ok (m, rest) := by
  simp [takeRegAddr, h]

theorem takeByte_inv {bs rest : List Byte} {v : Byte} (h : takeByte bs = .ok (v, rest)) : bs = v :: rest := by
  cases bs with
  | nil => cases h
  | cons b bs => cases h; rfl

theorem takeWord_inv {bs rest : List Byte} {v : Word} (h : takeWord bs = .ok (v, rest)) : bs = hiByte v :: loByte v :: rest := by
  rcases bs with _ | ⟨b, _ | ⟨c, bs⟩⟩
  · cases h
  · cases h
  · cases h; simp

theorem takeRegAddr_inv {bs rest : List Byte} {m : RegAddr} (h : takeRegAddr bs = .ok (m, rest)) :
    bs = m.offset :: m.base :: rest ∧ isReg16 m.base = true := by
  rcases bs with _ | ⟨b, _ | ⟨c, bs⟩⟩
  · cases h
  · cases h
  · by_cases hc : isReg16 c = true
    · simp only [takeRegAddr, hc, if_true] at h
      cases h
      exact ⟨rfl, hc⟩
    · simp only [takeRegAddr, hc] at h
      cases h

/-- The row found is in the list and has the opcode looked for. -/
theorem findRow_mem {op : Byte} {l : List Row} {row : Row} (h : findRow op l = some row) : row ∈ l ∧ row.opcode = op := by
  induction l with
  | nil => cases h
  | cons r l ih =>
    simp only [findRow] at h
    split at h
    · cases h; exact ⟨by simp, by assumption⟩
    · exact ⟨by simp [(ih h).1], (ih h).2⟩

/-- Decoding is the reader of the row the first byte selects. -/
theorem decode_of_row {op : Byte} {row : Row} {bs : List Byte} (h : findRow op registry = some row) :
    decode (op :: bs) = row.shape.parse bs := by
  simp only [decode, h]

/-! ### The formats -/

theorem parse_shapeN (k : Instr) (rest : List Byte) :
    (shapeN k).parse (rest) = .ok (k, rest) := rfl

theorem parse_shapeN_inv {k : Instr} {bs rest : List Byte} {i : Instr} (h : (shapeN k).parse bs = .ok (i, rest)) :
    i = k ∧ bs = rest := by
  cases h
  exact ⟨rfl, rfl⟩

theorem parse_shapeR16 (k : RegIdx → Instr) (x : RegIdx) (rest : List Byte) :
    (shapeR16 k).parse (x :: rest) = .ok (k x, rest) := rfl

theorem parse_shapeR16_inv {k : RegIdx → Instr} {bs rest : List Byte} {i : Instr} (h : (shapeR16 k).parse bs = .ok (i, rest)) :
    ∃ x, i = k x ∧ bs = x :: rest := by
  obtain ⟨⟨x, _⟩, hx, h⟩ := reader_bind h
  cases h
  exact ⟨x, rfl, by rw [takeByte_inv hx]⟩

theorem parse_shapeR8 (k : RegIdx → Instr) (x : RegIdx) (rest : List Byte) :
    (shapeR8 k).parse (x :: rest) = .ok (k x, rest) := rfl

theorem parse_shapeR8_inv {k : RegIdx → Instr} {bs rest : List Byte} {i : Instr} (h : (shapeR8 k).parse bs = .ok (i, rest)) :
    ∃ x, i = k x ∧ bs = x :: rest := by
  obtain ⟨⟨x, _⟩, hx, h⟩ := reader_bind h
  cases h
  exact ⟨x, rfl, by rw [takeByte_inv hx]⟩

theorem parse_shapeB (k : Byte → Instr) (x : Byte) (rest : List Byte) :
    (shapeB k).parse (x :: rest) = .ok (k x, rest) := rfl

theorem parse_shapeB_inv {k : Byte → Instr} {bs rest : List Byte} {i : Instr} (h : (shapeB k).parse bs = .ok (i, rest)) :
    ∃ x, i = k x ∧ bs = x :: rest := by
  obtain ⟨⟨x, _⟩, hx, h⟩ := reader_bind h
  cases h
  exact ⟨x, rfl, by rw [takeByte_inv hx]⟩

theorem parse_shapeW (k : Word → Instr) (x : Word) (rest : List Byte) :
    (shapeW k).parse (hiByte x :: loByte x :: rest) = .ok (k x, rest) := by
  simp only [shapeW, takeWord_bytes]
  rfl

theorem parse_shapeW_inv {k : Word → Instr} {bs rest : List Byte} {i : Instr} (h : (shapeW k).parse bs = .ok (i, rest)) :
    ∃ x, i = k x ∧ bs = hiByte x :: loByte x :: rest := by
  obtain ⟨⟨x, _⟩, hx, h⟩ := reader_bind h
  cases h
  exact ⟨x, rfl, by rw [takeWord_inv hx]⟩

theorem parse_shapeAd (k : Word → Instr) (x : Word) (rest : List Byte) :
    (shapeAd k).parse (hiByte x :: loByte x :: rest) = .ok (k x, rest) := by
  simp only [shapeAd, takeWord_bytes]
  rfl

theorem parse_shapeAd_inv {k : Word → Instr} {bs rest : List Byte} {i : Instr} (h : (shapeAd k).parse bs = .ok (i, rest)) :
    ∃ x, i = k x ∧ bs = hiByte x :: loByte x :: rest := by
  obtain ⟨⟨x, _⟩, hx, h⟩ := reader_bind h
  cases h
  exact ⟨x, rfl, by rw [takeWord_inv hx]⟩

theorem parse_shapeRa (k : RegAddr → Instr) (x : RegAddr) (rest : List Byte) (h : isReg16 x.base = true) :
    (shapeRa k).parse (x.offset :: x.base :: rest) = .ok (k x, rest) := by
  simp only [shapeRa, takeRegAddr_bytes x _ h]
  rfl

theorem parse_shapeRa_inv {k : RegAddr → Instr} {bs rest : List Byte} {i : Instr} (h : (shapeRa k).parse bs = .ok (i, rest)) :
    ∃ x, i = k x ∧ bs = x.offset :: x.base :: rest ∧ isReg16 x.base = true := by
  obtain ⟨⟨x, _⟩, hx, h⟩ := reader_bind h
  cases h
  exact ⟨x, rfl, by rw [(takeRegAddr_inv hx).1], (takeRegAddr_inv hx).2⟩

theorem parse_shapeR16R16 (k : RegIdx → RegIdx → Instr) (x : RegIdx) (y : RegIdx) (rest : List Byte) :
    (shapeR16R16 k).parse (x :: y :: rest) = .ok (k x y, rest) := rfl

theorem parse_shapeR16R16_inv {k : RegIdx → RegIdx → Instr} {bs rest : List Byte} {i : Instr} (h : (shapeR16R16 k).parse bs = .ok (i, rest)) :
    ∃ x y, i = k x y ∧ bs = x :: y :: rest := by
  obtain ⟨⟨x, _⟩, hx, h⟩ := reader_bind h
  obtain ⟨⟨y, _⟩, hy, h⟩ := reader_bind h
  cases h
  exact ⟨x, y, rfl, by rw [takeByte_inv hx, takeByte_inv hy]⟩

theorem parse_shapeR8R8 (k : RegIdx → RegIdx → Instr) (x : RegIdx) (y : RegIdx) (rest : List Byte) :
    (shapeR8R8 k).parse (x :: y :: rest) = .ok (k x y, rest) := rfl

theorem parse_shapeR8R8_inv {k : RegIdx → RegIdx → Instr} {bs rest : List Byte} {i : Instr} (h : (shapeR8R8 k).parse bs = .ok (i, rest)) :
    ∃ x y, i = k x y ∧ bs = x :: y :: rest := by
  obtain ⟨⟨x, _⟩, hx, h⟩ := reader_bind h
  obtain ⟨⟨y, _⟩, hy, h⟩ := reader_bind h
  cases h
  exact ⟨x, y, rfl, by rw [takeByte_inv hx, takeByte_inv hy]⟩

theorem parse_shapeR8B (k : RegIdx → Byte → Instr) (x : RegIdx) (y : Byte) (rest : List Byte) :
    (shapeR8B k).parse (x :: y :: rest) = .ok (k x y, rest) := rfl

theorem parse_shapeR8B_inv {k : RegIdx → Byte → Instr} {bs rest : List Byte} {i : Instr} (h : (shapeR8B k).parse bs = .ok (i, rest)) :
    ∃ x y, i = k x y ∧ bs = x :: y :: rest := by
  obtain ⟨⟨x, _⟩, hx, h⟩ := reader_bind h
  obtain ⟨⟨y, _⟩, hy, h⟩ := reader_bind h
  cases h
  exact ⟨x, y, rfl, by rw [takeByte_inv hx, takeByte_inv hy]⟩

theorem parse_shapeR16W (k : RegIdx → Word → Instr) (x : RegIdx) (y : Word) (rest : List Byte) :
    (shapeR16W k).parse (x :: hiByte y :: loByte y :: rest) = .ok (k x y, rest) := by
  simp only [shapeR16W, takeByte, takeWord_bytes, bind, Except.bind, pure, Except.pure]

theorem parse_shapeR16W_inv {k : RegIdx → Word → Instr} {bs rest : List Byte} {i : Instr} (h : (shapeR16W k).parse bs = .ok (i, rest)) :
    ∃ x y, i = k x y ∧ bs = x :: hiByte y :: loByte y :: rest := by
  obtain ⟨⟨x, _⟩, hx, h⟩ := reader_bind h
  obtain ⟨⟨y, _⟩, hy, h⟩ := reader_bind h
  cases h
  exact ⟨x, y, rfl, by rw [takeByte_inv hx, takeWord_inv hy]⟩

theorem parse_shapeR16Ad (k : RegIdx → Word → Instr) (x : RegIdx) (y : Word) (rest : List Byte) :
    (shapeR16Ad k).parse (x :: hiByte y :: loByte y :: rest) = .ok (k x y, rest) := by
  simp only [shapeR16Ad, takeByte, takeWord_bytes, bind, Except.bind, pure, Except.pure]

theorem parse_shapeR16Ad_inv {k : RegIdx → Word → Instr} {bs rest : List Byte} {i : Instr} (h : (shapeR16Ad k).parse bs = .ok (i, rest)) :
    ∃ x y, i = k x y ∧ bs = x :: hiByte y :: loByte y :: rest := by
  obtain ⟨⟨x, _⟩, hx, h⟩ := reader_bind h
  obtain ⟨⟨y, _⟩, hy, h⟩ := reader_bind h
  cases h
  exact ⟨x, y, rfl, by rw [takeByte_inv hx, takeWord_inv hy]⟩

theorem parse_shapeR16Ra (k : RegIdx → RegAddr → Instr) (x : RegIdx) (y : RegAddr) (rest : List Byte) (h : isReg16 y.base = true) :
    (shapeR16Ra k).parse (x :: y.offset :: y.base :: rest) = .ok (k x y, rest) := by
  simp only [shapeR16Ra, takeByte, takeRegAddr_bytes y _ h, bind, Except.bind, pure, Except.pure]

theorem parse_shapeR16Ra_inv {k : RegIdx → RegAddr → Instr} {bs rest : List Byte} {i : Instr} (h : (shapeR16Ra k).parse bs = .ok (i, rest)) :
    ∃ x y, i = k x y ∧ bs = x :: y.offset :: y.base :: rest ∧ isReg16 y.base = true := by
  obtain ⟨⟨x, _⟩, hx, h⟩ := reader_bind h
  obtain ⟨⟨y, _⟩, hy, h⟩ := reader_bind h
  cases h
  exact ⟨x, y, rfl, by rw [takeByte_inv hx, (takeRegAddr_inv hy).1], (takeRegAddr_inv hy).2⟩

theorem parse_shapeR8Ad (k : RegIdx → Word → Instr) (x : RegIdx) (y : Word) (rest : List Byte) :
    (shapeR8Ad k).parse (x :: hiByte y :: loByte y :: rest) = .ok (k x y, rest) := by
  simp only [shapeR8Ad, takeByte, takeWord_bytes, bind, Except.bind, pure, Except.pure]

theorem parse_shapeR8Ad_inv {k : RegIdx → Word → Instr} {bs rest : List Byte} {i : Instr} (h : (shapeR8Ad k).parse bs = .ok (i, rest)) :
    ∃ x y, i = k x y ∧ bs = x :: hiByte y :: loByte y :: rest := by
  obtain ⟨⟨x, _⟩, hx, h⟩ := reader_bind h
  obtain ⟨⟨y, _⟩, hy, h⟩ := reader_bind h
  cases h
  exact ⟨x, y, rfl, by rw [takeByte_inv hx, takeWord_inv hy]⟩

theorem parse_shapeR8Ra (k : RegIdx → RegAddr → Instr) (x : RegIdx) (y : RegAddr) (rest : List Byte) (h : isReg16 y.base = true) :
    (shapeR8Ra k).parse (x :: y.offset :: y.base :: rest) = .ok (k x y, rest) := by
  simp only [shapeR8Ra, takeByte, takeRegAddr_bytes y _ h, bind, Except.bind, pure, Except.pure]

theorem parse_shapeR8Ra_inv {k : RegIdx → RegAddr → Instr} {bs rest : List Byte} {i : Instr} (h : (shapeR8Ra k).parse bs = .ok (i, rest)) :
    ∃ x y, i = k x y ∧ bs = x :: y.offset :: y.base :: rest ∧ isReg16 y.base = true := by
  obtain ⟨⟨x, _⟩, hx, h⟩ := reader_bind h
  obtain ⟨⟨y, _⟩, hy, h⟩ := reader_bind h
  cases h
  exact ⟨x, y, rfl, by rw [takeByte_inv hx, (takeRegAddr_inv hy).1], (takeRegAddr_inv hy).2⟩

theorem parse_shapeAdR16 (k : Word → RegIdx → Instr) (x : Word) (y : RegIdx) (rest : List Byte) :
    (shapeAdR16 k).parse (hiByte x :: loByte x :: y :: rest) = .ok (k x y, rest) := by
  simp only [shapeAdR16, takeByte, takeWord_bytes, bind, Except.bind, pure, Except.pure]

theorem parse_shapeAdR16_inv {k : Word → RegIdx → Instr} {bs rest : List Byte} {i : Instr} (h : (shapeAdR16 k).parse bs = .ok (i, rest)) :
    ∃ x y, i = k x y ∧ bs = hiByte x :: loByte x :: y :: rest := by
  obtain ⟨⟨x, _⟩, hx, h⟩ := reader_bind h
  obtain ⟨⟨y, _⟩, hy, h⟩ := reader_bind h
  cases h
  exact ⟨x, y, rfl, by rw [takeWord_inv hx, takeByte_inv hy]⟩

theorem parse_shapeRaR16 (k : RegAddr → RegIdx → Instr) (x : RegAddr) (y : RegIdx) (rest : List Byte) (h : isReg16 x.base = true) :
    (shapeRaR16 k).parse (x.offset :: x.base :: y :: rest) = .ok (k x y, rest) := by
  simp only [shapeRaR16, takeByte, takeRegAddr_bytes x _ h, bind, Except.bind, pure, Except.pure]

theorem parse_shapeRaR16_inv {k : RegAddr → RegIdx → Instr} {bs rest : List Byte} {i : Instr} (h : (shapeRaR16 k).parse bs = .ok (i, rest)) :
    ∃ x y, i = k x y ∧ bs = x.offset :: x.base :: y :: rest ∧ isReg16 x.base = true := by
  obtain ⟨⟨x, _⟩, hx, h⟩ := reader_bind h
  obtain ⟨⟨y, _⟩, hy, h⟩ := reader_bind h
  cases h
  exact ⟨x, y, rfl, by rw [(takeRegAddr_inv hx).1, takeByte_inv hy], (takeRegAddr_inv hx).2⟩

theorem parse_shapeAdR8 (k : Word → RegIdx → Instr) (x : Word) (y : RegIdx) (rest : List Byte) :
    (shapeAdR8 k).parse (hiByte x :: loByte x :: y :: rest) = .ok (k x y, rest) := by
  simp only [shapeAdR8, takeByte, takeWord_bytes, bind, Except.bind, pure, Except.pure]

theorem parse_shapeAdR8_inv {k : Word → RegIdx → Instr} {bs rest : List Byte} {i : Instr} (h : (shapeAdR8 k).parse bs = .ok (i, rest)) :
    ∃ x y, i = k x y ∧ bs = hiByte x :: loByte x :: y :: rest := by
  obtain ⟨⟨x, _⟩, hx, h⟩ := reader_bind h
  obtain ⟨⟨y, _⟩, hy, h⟩ := reader_bind h
  cases h
  exact ⟨x, y, rfl, by rw [takeWord_inv hx, takeByte_inv hy]⟩

theorem parse_shapeRaR8 (k : RegAddr → RegIdx → Instr) (x : RegAddr) (y : RegIdx) (rest : List Byte) (h : isReg16 x.base = true) :
    (shapeRaR8 k).parse (x.offset :: x.base :: y :: rest) = .ok (k x y, rest) := by
  simp only [shapeRaR8, takeByte, takeRegAddr_bytes x _ h, bind, Except.bind, pure, Except.pure]

theorem parse_shapeRaR8_inv {k : RegAddr → RegIdx → Instr} {bs rest : List Byte} {i : Instr} (h : (shapeRaR8 k).parse bs = .ok (i, rest)) :
    ∃ x y, i = k x y ∧ bs = x.offset :: x.base :: y :: rest ∧ isReg16 x.base = true := by
  obtain ⟨⟨x, _⟩, hx, h⟩ := reader_bind h
  obtain ⟨⟨y, _⟩, hy, h⟩ := reader_bind h
  cases h
  exact ⟨x, y, rfl, by rw [(takeRegAddr_inv hx).1, takeByte_inv hy], (takeRegAddr_inv hx).2⟩

theorem parse_shapeAdB (k : Word → Byte → Instr) (x : Word) (y : Byte) (rest : List Byte) :
    (shapeAdB k).parse (hiByte x :: loByte x :: y :: rest) = .ok (k x y, rest) := by
  simp only [shapeAdB, takeByte, takeWord_bytes, bind, Except.bind, pure, Except.pure]

theorem parse_shapeAdB_inv {k : Word → Byte → Instr} {bs rest : List Byte} {i : Instr} (h : (shapeAdB k).parse bs = .ok (i, rest)) :
    ∃ x y, i = k x y ∧ bs = hiByte x :: loByte x :: y :: rest := by
  obtain ⟨⟨x, _⟩, hx, h⟩ := reader_bind h
  obtain ⟨⟨y, _⟩, hy, h⟩ := reader_bind h
  cases h
  exact ⟨x, y, rfl, by rw [takeWord_inv hx, takeByte_inv hy]⟩

theorem parse_shapeRaB (k : RegAddr → Byte → Instr) (x : RegAddr) (y : Byte) (rest : List Byte) (h : isReg16 x.base = true) :
    (shapeRaB k).parse (x.offset :: x.base :: y :: rest) = .ok (k x y, rest) := by
  simp only [shapeRaB, takeByte, takeRegAddr_bytes x _ h, bind, Except.bind, pure, Except.pure]

theorem parse_shapeRaB_inv {k : RegAddr → Byte → Instr} {bs rest : List Byte} {i : Instr} (h : (shapeRaB k).parse bs = .ok (i, rest)) :
    ∃ x y, i = k x y ∧ bs = x.offset :: x.base :: y :: rest ∧ isReg16 x.base = true := by
  obtain ⟨⟨x, _⟩, hx, h⟩ := reader_bind h
  obtain ⟨⟨y, _⟩, hy, h⟩ := reader_bind h
  cases h
  exact ⟨x, y, rfl, by rw [(takeRegAddr_inv hx).1, takeByte_inv hy], (takeRegAddr_inv hx).2⟩

theorem parse_shapeAdW (k : Word → Word → Instr) (x : Word) (y : Word) (rest : List Byte) :
    (shapeAdW k).parse (hiByte x :: loByte x :: hiByte y :: loByte y :: rest) = .ok (k x y, rest) := by
  simp only [shapeAdW, takeWord_bytes, bind, Except.bind, pure, Except.pure]

theorem parse_shapeAdW_inv {k : Word → Word → Instr} {bs rest : List Byte} {i : Instr} (h : (shapeAdW k).parse bs = .ok (i, rest)) :
    ∃ x y, i = k x y ∧ bs = hiByte x :: loByte x :: hiByte y :: loByte y :: rest := by
  obtain ⟨⟨x, _⟩, hx, h⟩ := reader_bind h
  obtain ⟨⟨y, _⟩, hy, h⟩ := reader_bind h
  cases h
  exact ⟨x, y, rfl, by rw [takeWord_inv hx, takeWord_inv hy]⟩

theorem parse_shapeRaW (k : RegAddr → Word → Instr) (x : RegAddr) (y : Word) (rest : List Byte) (h : isReg16 x.base = true) :
    (shapeRaW k).parse (x.offset :: x.base :: hiByte y :: loByte y :: rest) = .ok (k x y, rest) := by
  simp only [shapeRaW, takeWord_bytes, takeRegAddr_bytes x _ h, bind, Except.bind, pure, Except.pure]

theorem parse_shapeRaW_inv {k : RegAddr → Word → Instr} {bs rest : List Byte} {i : Instr} (h : (shapeRaW k).parse bs = .ok (i, rest)) :
    ∃ x y, i = k x y ∧ bs = x.offset :: x.base :: hiByte y :: loByte y :: rest ∧ isReg16 x.base = true := by
  obtain ⟨⟨x, _⟩, hx, h⟩ := reader_bind h
  obtain ⟨⟨y, _⟩, hy, h⟩ := reader_bind h
  cases h
  exact ⟨x, y, rfl, by rw [(takeRegAddr_inv hx).1, takeWord_inv hy], (takeRegAddr_inv hx).2⟩

end Sys2Proof
end

