-- ==== Sys2Proof/Laws/Forms.lean ====
section
/-! SUPPORT. What `exec` is for each operand form: the handler it concludes; and how far into an encoding decoding reads. -/

namespace Sys2Proof.Machine

/-- The ALU operation of a two-operand mnemonic. -/
def BinOp.alu {n : Nat} : BinOp → BitVec n → BitVec n → AluResult n
  | .add => aluAdd
  | .sub => aluSub
  | .and => aluAnd
  | .or => aluOr
  | .xor => aluXor
  | .shl => aluShl
  | .shr => aluShr

theorem exec_binForm (op : BinOp) (d : RegIdx) (src : Src16) (s : State) :
    exec (binForm op d src) s = conclude s (aluReg16 op.alu (binForm op d src).size d src s) := by
  cases op <;> rcases src with r | (a | m) | v <;> rfl

theorem exec_binbForm (op : BinOp) (d : RegIdx) (src : Src8) (s : State) :
    exec (binbForm op d src) s = conclude s (aluReg8 op.alu (binbForm op d src).size d src s) := by
  cases op <;> rcases src with r | (a | m) | v <;> rfl

theorem exec_cmpForm (d : RegIdx) (src : Src16) (s : State) :
    exec (cmpForm d src) s = conclude s (compare16 (cmpForm d src).size d src s) := by
  rcases src with r | (a | m) | v <;> rfl

theorem exec_cmpbForm (d : RegIdx) (src : Src8) (s : State) :
    exec (cmpbForm d src) s = conclude s (compare8 (cmpbForm d src).size d src s) := by
  rcases src with r | (a | m) | v <;> rfl

theorem exec_movForm (d : RegIdx) (src : Src16) (s : State) :
    exec (movForm d src) s = conclude s (moveToReg16 (movForm d src).size d src s) := by
  rcases src with r | (a | m) | v <;> rfl

theorem exec_movbForm (d : RegIdx) (src : Src8) (s : State) :
    exec (movbForm d src) s = conclude s (moveToReg8 (movbForm d src).size d src s) := by
  rcases src with r | (a | m) | v <;> rfl

theorem exec_mulForm (src : Src16) (s : State) :
    exec (mulForm src) s = conclude s (multiply16 (mulForm src).size src s) := by
  rcases src with r | (a | m) | v <;> rfl

theorem exec_mulbForm (src : Src8) (s : State) :
    exec (mulbForm src) s = conclude s (multiply8 (mulbForm src).size src s) := by
  rcases src with r | (a | m) | v <;> rfl

theorem exec_divForm (src : Src16) (s : State) :
    exec (divForm src) s = conclude s (divide16 (divForm src).size src s) := by
  rcases src with r | (a | m) | v <;> rfl

theorem exec_divbForm (src : Src8) (s : State) :
    exec (divbForm src) s = conclude s (divide8 (divbForm src).size src s) := by
  rcases src with r | (a | m) | v <;> rfl

theorem exec_pushForm (src : Src16) (s : State) :
    exec (pushForm src) s = conclude s (pushWord (pushForm src).size src s) := by
  rcases src with r | (a | m) | v <;> rfl

theorem exec_pushbForm (src : Src8) (s : State) :
    exec (pushbForm src) s = conclude s (pushByte (pushbForm src).size src s) := by
  rcases src with r | (a | m) | v <;> rfl

theorem exec_inForm (src : Src16) (s : State) :
    exec (inForm src) s = conclude s (input (inForm src).size src s) := by
  rcases src with r | (a | m) | v <;> rfl

theorem exec_outForm (src : Src16) (s : State) :
    exec (outForm src) s = conclude s (output (outForm src).size src s) := by
  rcases src with r | (a | m) | v <;> rfl

theorem exec_movStoreReg (o : MemOperand) (r : RegIdx) (s : State) :
    exec (movStoreReg o r) s = conclude s (moveToMem16 (movStoreReg o r).size o (.reg r) s) := by
  rcases o with a | m <;> rfl

theorem exec_movStoreImm (o : MemOperand) (r : Word) (s : State) :
    exec (movStoreImm o r) s = conclude s (moveToMem16 (movStoreImm o r).size o (.imm r) s) := by
  rcases o with a | m <;> rfl

theorem exec_movbStoreReg (o : MemOperand) (r : RegIdx) (s : State) :
    exec (movbStoreReg o r) s = conclude s (moveToMem8 (movbStoreReg o r).size o (.reg r) s) := by
  rcases o with a | m <;> rfl

theorem exec_movbStoreImm (o : MemOperand) (r : Byte) (s : State) :
    exec (movbStoreImm o r) s = conclude s (moveToMem8 (movbStoreImm o r).size o (.imm r) s) := by
  rcases o with a | m <;> rfl

theorem exec_jumpForm (cond : Cond) (t : Target) (s : State) :
    exec (jumpForm cond t) s = conclude s (jumpIf (cond.holds s) t s) := by
  cases cond <;> rcases t with v | m <;> rfl

theorem exec_callForm (t : Target) (s : State) :
    exec (callForm t) s = conclude s (callTo t s) := by
  rcases t with v | m <;> rfl

/-- The handlers, each with whether it writes ZERO and CARRY: what every instruction but IRET and SVC runs. -/
inductive Handler : Bool → (State → Except Exc State) → Prop where
  | mv16 k d src : Handler false (moveToReg16 k d src)
  | mv8 k d src : Handler false (moveToReg8 k d src)
  | st16 k o src : Handler false (moveToMem16 k o src)
  | st8 k o src : Handler false (moveToMem8 k o src)
  | alu16 op k d src : Handler true (aluReg16 op k d src)
  | alu8 op k d src : Handler true (aluReg8 op k d src)
  | cmp16 k d src : Handler true (compare16 k d src)
  | cmp8 k d src : Handler true (compare8 k d src)
  | un16 op r : Handler true (unary16 op r)
  | un8 op r : Handler true (unary8 op r)
  | mul16 k src : Handler true (multiply16 k src)
  | mul8 k src : Handler true (multiply8 k src)
  | div16 k src : Handler true (divide16 k src)
  | div8 k src : Handler true (divide8 k src)
  | jump cond t : Handler false (fun s => jumpIf (Cond.holds s cond) t s)
  | call t : Handler false (callTo t)
  | ret : Handler false returnFromCall
  | psh16 k src : Handler false (pushWord k src)
  | psh8 k src : Handler false (pushByte k src)
  | pop16 r : Handler false (popWord r)
  | pop8 r : Handler false (popByte r)
  | halt : Handler false haltSelf
  | irq v : Handler false (writeIrqMask v)
  | inp k src : Handler false (input k src)
  | out k src : Handler false (output k src)

/-- Every instruction but IRET and SVC concludes one handler, and it is one that writes flags exactly when `writesFlags` says so. -/
theorem exec_handler : ∀ i : Instr, i ≠ .iret → i ≠ .svc →
    ∃ f, (∀ s, exec i s = conclude s (f s)) ∧ Handler (writesFlags i) f
  | .hlt, _, _ => ⟨haltSelf, fun _ => rfl, .halt⟩
  | .movR16R16 d r, _, _ => ⟨moveToReg16 3 d (.reg r), fun _ => rfl, .mv16 3 d (.reg r)⟩
  | .movR16Ad d a, _, _ => ⟨moveToReg16 4 d (.mem (.direct a)), fun _ => rfl, .mv16 4 d (.mem (.direct a))⟩
  | .movR16Ra d m, _, _ => ⟨moveToReg16 4 d (.mem (.indexed m)), fun _ => rfl, .mv16 4 d (.mem (.indexed m))⟩
  | .movAdR16 a r, _, _ => ⟨moveToMem16 4 (.direct a) (.reg r), fun _ => rfl, .st16 4 (.direct a) (.reg r)⟩
  | .movRaR16 m r, _, _ => ⟨moveToMem16 4 (.indexed m) (.reg r), fun _ => rfl, .st16 4 (.indexed m) (.reg r)⟩
  | .movR16W d v, _, _ => ⟨moveToReg16 4 d (.imm v), fun _ => rfl, .mv16 4 d (.imm v)⟩
  | .movAdW a v, _, _ => ⟨moveToMem16 5 (.direct a) (.imm v), fun _ => rfl, .st16 5 (.direct a) (.imm v)⟩
  | .movRaW m v, _, _ => ⟨moveToMem16 5 (.indexed m) (.imm v), fun _ => rfl, .st16 5 (.indexed m) (.imm v)⟩
  | .movbR8R8 d r, _, _ => ⟨moveToReg8 3 d (.reg r), fun _ => rfl, .mv8 3 d (.reg r)⟩
  | .movbR8Ad d a, _, _ => ⟨moveToReg8 4 d (.mem (.direct a)), fun _ => rfl, .mv8 4 d (.mem (.direct a))⟩
  | .movbR8Ra d m, _, _ => ⟨moveToReg8 4 d (.mem (.indexed m)), fun _ => rfl, .mv8 4 d (.mem (.indexed m))⟩
  | .movbAdR8 a r, _, _ => ⟨moveToMem8 4 (.direct a) (.reg r), fun _ => rfl, .st8 4 (.direct a) (.reg r)⟩
  | .movbRaR8 m r, _, _ => ⟨moveToMem8 4 (.indexed m) (.reg r), fun _ => rfl, .st8 4 (.indexed m) (.reg r)⟩
  | .movbR8B d v, _, _ => ⟨moveToReg8 3 d (.imm v), fun _ => rfl, .mv8 3 d (.imm v)⟩
  | .movbAdB a v, _, _ => ⟨moveToMem8 4 (.direct a) (.imm v), fun _ => rfl, .st8 4 (.direct a) (.imm v)⟩
  | .movbRaB m v, _, _ => ⟨moveToMem8 4 (.indexed m) (.imm v), fun _ => rfl, .st8 4 (.indexed m) (.imm v)⟩
  | .addR16R16 d r, _, _ => ⟨aluReg16 aluAdd 3 d (.reg r), fun _ => rfl, .alu16 aluAdd 3 d (.reg r)⟩
  | .addR16Ra d m, _, _ => ⟨aluReg16 aluAdd 4 d (.mem (.indexed m)), fun _ => rfl, .alu16 aluAdd 4 d (.mem (.indexed m))⟩
  | .addR16Ad d a, _, _ => ⟨aluReg16 aluAdd 4 d (.mem (.direct a)), fun _ => rfl, .alu16 aluAdd 4 d (.mem (.direct a))⟩
  | .addR16W d v, _, _ => ⟨aluReg16 aluAdd 4 d (.imm v), fun _ => rfl, .alu16 aluAdd 4 d (.imm v)⟩
  | .addbR8R8 d r, _, _ => ⟨aluReg8 aluAdd 3 d (.reg r), fun _ => rfl, .alu8 aluAdd 3 d (.reg r)⟩
  | .addbR8Ra d m, _, _ => ⟨aluReg8 aluAdd 4 d (.mem (.indexed m)), fun _ => rfl, .alu8 aluAdd 4 d (.mem (.indexed m))⟩
  | .addbR8Ad d a, _, _ => ⟨aluReg8 aluAdd 4 d (.mem (.direct a)), fun _ => rfl, .alu8 aluAdd 4 d (.mem (.direct a))⟩
  | .addbR8B d v, _, _ => ⟨aluReg8 aluAdd 3 d (.imm v), fun _ => rfl, .alu8 aluAdd 3 d (.imm v)⟩
  | .subR16R16 d r, _, _ => ⟨aluReg16 aluSub 3 d (.reg r), fun _ => rfl, .alu16 aluSub 3 d (.reg r)⟩
  | .subR16Ra d m, _, _ => ⟨aluReg16 aluSub 4 d (.mem (.indexed m)), fun _ => rfl, .alu16 aluSub 4 d (.mem (.indexed m))⟩
  | .subR16Ad d a, _, _ => ⟨aluReg16 aluSub 4 d (.mem (.direct a)), fun _ => rfl, .alu16 aluSub 4 d (.mem (.direct a))⟩
  | .subR16W d v, _, _ => ⟨aluReg16 aluSub 4 d (.imm v), fun _ => rfl, .alu16 aluSub 4 d (.imm v)⟩
  | .subbR8R8 d r, _, _ => ⟨aluReg8 aluSub 3 d (.reg r), fun _ => rfl, .alu8 aluSub 3 d (.reg r)⟩
  | .subbR8Ra d m, _, _ => ⟨aluReg8 aluSub 4 d (.mem (.indexed m)), fun _ => rfl, .alu8 aluSub 4 d (.mem (.indexed m))⟩
  | .subbR8Ad d a, _, _ => ⟨aluReg8 aluSub 4 d (.mem (.direct a)), fun _ => rfl, .alu8 aluSub 4 d (.mem (.direct a))⟩
  | .subbR8B d v, _, _ => ⟨aluReg8 aluSub 3 d (.imm v), fun _ => rfl, .alu8 aluSub 3 d (.imm v)⟩
  | .incR16 r, _, _ => ⟨unary16 (aluAdd · 1) r, fun _ => rfl, .un16 (aluAdd · 1) r⟩
  | .incbR8 r, _, _ => ⟨unary8 (aluAdd · 1) r, fun _ => rfl, .un8 (aluAdd · 1) r⟩
  | .decR16 r, _, _ => ⟨unary16 (aluSub · 1) r, fun _ => rfl, .un16 (aluSub · 1) r⟩
  | .decbR8 r, _, _ => ⟨unary8 (aluSub · 1) r, fun _ => rfl, .un8 (aluSub · 1) r⟩
  | .cmpR16R16 d r, _, _ => ⟨compare16 3 d (.reg r), fun _ => rfl, .cmp16 3 d (.reg r)⟩
  | .cmpR16Ra d m, _, _ => ⟨compare16 4 d (.mem (.indexed m)), fun _ => rfl, .cmp16 4 d (.mem (.indexed m))⟩
  | .cmpR16Ad d a, _, _ => ⟨compare16 4 d (.mem (.direct a)), fun _ => rfl, .cmp16 4 d (.mem (.direct a))⟩
  | .cmpR16W d v, _, _ => ⟨compare16 4 d (.imm v), fun _ => rfl, .cmp16 4 d (.imm v)⟩
  | .cmpbR8R8 d r, _, _ => ⟨compare8 3 d (.reg r), fun _ => rfl, .cmp8 3 d (.reg r)⟩
  | .cmpbR8Ra d m, _, _ => ⟨compare8 4 d (.mem (.indexed m)), fun _ => rfl, .cmp8 4 d (.mem (.indexed m))⟩
  | .cmpbR8Ad d a, _, _ => ⟨compare8 4 d (.mem (.direct a)), fun _ => rfl, .cmp8 4 d (.mem (.direct a))⟩
  | .cmpbR8B d v, _, _ => ⟨compare8 3 d (.imm v), fun _ => rfl, .cmp8 3 d (.imm v)⟩
  | .jmpRa m, _, _ => ⟨fun s => jumpIf (Cond.holds s .always) (.indexed m) s, fun _ => rfl, .jump .always (.indexed m)⟩
  | .jmpW v, _, _ => ⟨fun s => jumpIf (Cond.holds s .always) (.absolute v) s, fun _ => rfl, .jump .always (.absolute v)⟩
  | .jcRa m, _, _ => ⟨fun s => jumpIf (Cond.holds s .c) (.indexed m) s, fun _ => rfl, .jump .c (.indexed m)⟩
  | .jcW v, _, _ => ⟨fun s => jumpIf (Cond.holds s .c) (.absolute v) s, fun _ => rfl, .jump .c (.absolute v)⟩
  | .jncRa m, _, _ => ⟨fun s => jumpIf (Cond.holds s .nc) (.indexed m) s, fun _ => rfl, .jump .nc (.indexed m)⟩
  | .jncW v, _, _ => ⟨fun s => jumpIf (Cond.holds s .nc) (.absolute v) s, fun _ => rfl, .jump .nc (.absolute v)⟩
  | .jzRa m, _, _ => ⟨fun s => jumpIf (Cond.holds s .z) (.indexed m) s, fun _ => rfl, .jump .z (.indexed m)⟩
  | .jzW v, _, _ => ⟨fun s => jumpIf (Cond.holds s .z) (.absolute v) s, fun _ => rfl, .jump .z (.absolute v)⟩
  | .jnzRa m, _, _ => ⟨fun s => jumpIf (Cond.holds s .nz) (.indexed m) s, fun _ => rfl, .jump .nz (.indexed m)⟩
  | .jnzW v, _, _ => ⟨fun s => jumpIf (Cond.holds s .nz) (.absolute v) s, fun _ => rfl, .jump .nz (.absolute v)⟩
  | .jaRa m, _, _ => ⟨fun s => jumpIf (Cond.holds s .a) (.indexed m) s, fun _ => rfl, .jump .a (.indexed m)⟩
  | .jaW v, _, _ => ⟨fun s => jumpIf (Cond.holds s .a) (.absolute v) s, fun _ => rfl, .jump .a (.absolute v)⟩
  | .jnaRa m, _, _ => ⟨fun s => jumpIf (Cond.holds s .na) (.indexed m) s, fun _ => rfl, .jump .na (.indexed m)⟩
  | .jnaW v, _, _ => ⟨fun s => jumpIf (Cond.holds s .na) (.absolute v) s, fun _ => rfl, .jump .na (.absolute v)⟩
  | .pushR16 r, _, _ => ⟨pushWord 2 (.reg r), fun _ => rfl, .psh16 2 (.reg r)⟩
  | .pushRa m, _, _ => ⟨pushWord 3 (.mem (.indexed m)), fun _ => rfl, .psh16 3 (.mem (.indexed m))⟩
  | .pushAd a, _, _ => ⟨pushWord 3 (.mem (.direct a)), fun _ => rfl, .psh16 3 (.mem (.direct a))⟩
  | .pushW v, _, _ => ⟨pushWord 3 (.imm v), fun _ => rfl, .psh16 3 (.imm v)⟩
  | .pushbR8 r, _, _ => ⟨pushByte 2 (.reg r), fun _ => rfl, .psh8 2 (.reg r)⟩
  | .pushbRa m, _, _ => ⟨pushByte 3 (.mem (.indexed m)), fun _ => rfl, .psh8 3 (.mem (.indexed m))⟩
  | .pushbAd a, _, _ => ⟨pushByte 3 (.mem (.direct a)), fun _ => rfl, .psh8 3 (.mem (.direct a))⟩
  | .pushbB v, _, _ => ⟨pushByte 2 (.imm v), fun _ => rfl, .psh8 2 (.imm v)⟩
  | .popR16 r, _, _ => ⟨popWord r, fun _ => rfl, .pop16 r⟩
  | .popbR8 r, _, _ => ⟨popByte r, fun _ => rfl, .pop8 r⟩
  | .callRa m, _, _ => ⟨callTo (.indexed m), fun _ => rfl, .call (.indexed m)⟩
  | .callW v, _, _ => ⟨callTo (.absolute v), fun _ => rfl, .call (.absolute v)⟩
  | .ret, _, _ => ⟨returnFromCall, fun _ => rfl, .ret⟩
  | .mulR16 r, _, _ => ⟨multiply16 2 (.reg r), fun _ => rfl, .mul16 2 (.reg r)⟩
  | .mulRa m, _, _ => ⟨multiply16 3 (.mem (.indexed m)), fun _ => rfl, .mul16 3 (.mem (.indexed m))⟩
  | .mulAd a, _, _ => ⟨multiply16 3 (.mem (.direct a)), fun _ => rfl, .mul16 3 (.mem (.direct a))⟩
  | .mulW v, _, _ => ⟨multiply16 3 (.imm v), fun _ => rfl, .mul16 3 (.imm v)⟩
  | .mulbR8 r, _, _ => ⟨multiply8 2 (.reg r), fun _ => rfl, .mul8 2 (.reg r)⟩
  | .mulbRa m, _, _ => ⟨multiply8 3 (.mem (.indexed m)), fun _ => rfl, .mul8 3 (.mem (.indexed m))⟩
  | .mulbAd a, _, _ => ⟨multiply8 3 (.mem (.direct a)), fun _ => rfl, .mul8 3 (.mem (.direct a))⟩
  | .mulbB v, _, _ => ⟨multiply8 2 (.imm v), fun _ => rfl, .mul8 2 (.imm v)⟩
  | .divR16 r, _, _ => ⟨divide16 2 (.reg r), fun _ => rfl, .div16 2 (.reg r)⟩
  | .divRa m, _, _ => ⟨divide16 3 (.mem (.indexed m)), fun _ => rfl, .div16 3 (.mem (.indexed m))⟩
  | .divAd a, _, _ => ⟨divide16 3 (.mem (.direct a)), fun _ => rfl, .div16 3 (.mem (.direct a))⟩
  | .divW v, _, _ => ⟨divide16 3 (.imm v), fun _ => rfl, .div16 3 (.imm v)⟩
  | .divbR8 r, _, _ => ⟨divide8 2 (.reg r), fun _ => rfl, .div8 2 (.reg r)⟩
  | .divbRa m, _, _ => ⟨divide8 3 (.mem (.indexed m)), fun _ => rfl, .div8 3 (.mem (.indexed m))⟩
  | .divbAd a, _, _ => ⟨divide8 3 (.mem (.direct a)), fun _ => rfl, .div8 3 (.mem (.direct a))⟩
  | .divbB v, _, _ => ⟨divide8 2 (.imm v), fun _ => rfl, .div8 2 (.imm v)⟩
  | .andR16R16 d r, _, _ => ⟨aluReg16 aluAnd 3 d (.reg r), fun _ => rfl, .alu16 aluAnd 3 d (.reg r)⟩
  | .andR16Ra d m, _, _ => ⟨aluReg16 aluAnd 4 d (.mem (.indexed m)), fun _ => rfl, .alu16 aluAnd 4 d (.mem (.indexed m))⟩
  | .andR16Ad d a, _, _ => ⟨aluReg16 aluAnd 4 d (.mem (.direct a)), fun _ => rfl, .alu16 aluAnd 4 d (.mem (.direct a))⟩
  | .andR16W d v, _, _ => ⟨aluReg16 aluAnd 4 d (.imm v), fun _ => rfl, .alu16 aluAnd 4 d (.imm v)⟩
  | .andbR8R8 d r, _, _ => ⟨aluReg8 aluAnd 3 d (.reg r), fun _ => rfl, .alu8 aluAnd 3 d (.reg r)⟩
  | .andbR8Ra d m, _, _ => ⟨aluReg8 aluAnd 4 d (.mem (.indexed m)), fun _ => rfl, .alu8 aluAnd 4 d (.mem (.indexed m))⟩
  | .andbR8Ad d a, _, _ => ⟨aluReg8 aluAnd 4 d (.mem (.direct a)), fun _ => rfl, .alu8 aluAnd 4 d (.mem (.direct a))⟩
  | .andbR8B d v, _, _ => ⟨aluReg8 aluAnd 3 d (.imm v), fun _ => rfl, .alu8 aluAnd 3 d (.imm v)⟩
  | .orR16R16 d r, _, _ => ⟨aluReg16 aluOr 3 d (.reg r), fun _ => rfl, .alu16 aluOr 3 d (.reg r)⟩
  | .orR16Ra d m, _, _ => ⟨aluReg16 aluOr 4 d (.mem (.indexed m)), fun _ => rfl, .alu16 aluOr 4 d (.mem (.indexed m))⟩
  | .orR16Ad d a, _, _ => ⟨aluReg16 aluOr 4 d (.mem (.direct a)), fun _ => rfl, .alu16 aluOr 4 d (.mem (.direct a))⟩
  | .orR16W d v, _, _ => ⟨aluReg16 aluOr 4 d (.imm v), fun _ => rfl, .alu16 aluOr 4 d (.imm v)⟩
  | .orbR8R8 d r, _, _ => ⟨aluReg8 aluOr 3 d (.reg r), fun _ => rfl, .alu8 aluOr 3 d (.reg r)⟩
  | .orbR8Ra d m, _, _ => ⟨aluReg8 aluOr 4 d (.mem (.indexed m)), fun _ => rfl, .alu8 aluOr 4 d (.mem (.indexed m))⟩
  | .orbR8Ad d a, _, _ => ⟨aluReg8 aluOr 4 d (.mem (.direct a)), fun _ => rfl, .alu8 aluOr 4 d (.mem (.direct a))⟩
  | .orbR8B d v, _, _ => ⟨aluReg8 aluOr 3 d (.imm v), fun _ => rfl, .alu8 aluOr 3 d (.imm v)⟩
  | .xorR16R16 d r, _, _ => ⟨aluReg16 aluXor 3 d (.reg r), fun _ => rfl, .alu16 aluXor 3 d (.reg r)⟩
  | .xorR16Ra d m, _, _ => ⟨aluReg16 aluXor 4 d (.mem (.indexed m)), fun _ => rfl, .alu16 aluXor 4 d (.mem (.indexed m))⟩
  | .xorR16Ad d a, _, _ => ⟨aluReg16 aluXor 4 d (.mem (.direct a)), fun _ => rfl, .alu16 aluXor 4 d (.mem (.direct a))⟩
  | .xorR16W d v, _, _ => ⟨aluReg16 aluXor 4 d (.imm v), fun _ => rfl, .alu16 aluXor 4 d (.imm v)⟩
  | .xorbR8R8 d r, _, _ => ⟨aluReg8 aluXor 3 d (.reg r), fun _ => rfl, .alu8 aluXor 3 d (.reg r)⟩
  | .xorbR8Ra d m, _, _ => ⟨aluReg8 aluXor 4 d (.mem (.indexed m)), fun _ => rfl, .alu8 aluXor 4 d (.mem (.indexed m))⟩
  | .xorbR8Ad d a, _, _ => ⟨aluReg8 aluXor 4 d (.mem (.direct a)), fun _ => rfl, .alu8 aluXor 4 d (.mem (.direct a))⟩
  | .xorbR8B d v, _, _ => ⟨aluReg8 aluXor 3 d (.imm v), fun _ => rfl, .alu8 aluXor 3 d (.imm v)⟩
  | .notR16 r, _, _ => ⟨unary16 aluNot r, fun _ => rfl, .un16 aluNot r⟩
  | .notbR8 r, _, _ => ⟨unary8 aluNot r, fun _ => rfl, .un8 aluNot r⟩
  | .shlR16R16 d r, _, _ => ⟨aluReg16 aluShl 3 d (.reg r), fun _ => rfl, .alu16 aluShl 3 d (.reg r)⟩
  | .shlR16Ra d m, _, _ => ⟨aluReg16 aluShl 4 d (.mem (.indexed m)), fun _ => rfl, .alu16 aluShl 4 d (.mem (.indexed m))⟩
  | .shlR16Ad d a, _, _ => ⟨aluReg16 aluShl 4 d (.mem (.direct a)), fun _ => rfl, .alu16 aluShl 4 d (.mem (.direct a))⟩
  | .shlR16W d v, _, _ => ⟨aluReg16 aluShl 4 d (.imm v), fun _ => rfl, .alu16 aluShl 4 d (.imm v)⟩
  | .shlbR8R8 d r, _, _ => ⟨aluReg8 aluShl 3 d (.reg r), fun _ => rfl, .alu8 aluShl 3 d (.reg r)⟩
  | .shlbR8Ra d m, _, _ => ⟨aluReg8 aluShl 4 d (.mem (.indexed m)), fun _ => rfl, .alu8 aluShl 4 d (.mem (.indexed m))⟩
  | .shlbR8Ad d a, _, _ => ⟨aluReg8 aluShl 4 d (.mem (.direct a)), fun _ => rfl, .alu8 aluShl 4 d (.mem (.direct a))⟩
  | .shlbR8B d v, _, _ => ⟨aluReg8 aluShl 3 d (.imm v), fun _ => rfl, .alu8 aluShl 3 d (.imm v)⟩
  | .shrR16R16 d r, _, _ => ⟨aluReg16 aluShr 3 d (.reg r), fun _ => rfl, .alu16 aluShr 3 d (.reg r)⟩
  | .shrR16Ra d m, _, _ => ⟨aluReg16 aluShr 4 d (.mem (.indexed m)), fun _ => rfl, .alu16 aluShr 4 d (.mem (.indexed m))⟩
  | .shrR16Ad d a, _, _ => ⟨aluReg16 aluShr 4 d (.mem (.direct a)), fun _ => rfl, .alu16 aluShr 4 d (.mem (.direct a))⟩
  | .shrR16W d v, _, _ => ⟨aluReg16 aluShr 4 d (.imm v), fun _ => rfl, .alu16 aluShr 4 d (.imm v)⟩
  | .shrbR8R8 d r, _, _ => ⟨aluReg8 aluShr 3 d (.reg r), fun _ => rfl, .alu8 aluShr 3 d (.reg r)⟩
  | .shrbR8Ra d m, _, _ => ⟨aluReg8 aluShr 4 d (.mem (.indexed m)), fun _ => rfl, .alu8 aluShr 4 d (.mem (.indexed m))⟩
  | .shrbR8Ad d a, _, _ => ⟨aluReg8 aluShr 4 d (.mem (.direct a)), fun _ => rfl, .alu8 aluShr 4 d (.mem (.direct a))⟩
  | .shrbR8B d v, _, _ => ⟨aluReg8 aluShr 3 d (.imm v), fun _ => rfl, .alu8 aluShr 3 d (.imm v)⟩
  | .cli, _, _ => ⟨writeIrqMask false, fun _ => rfl, .irq false⟩
  | .sti, _, _ => ⟨writeIrqMask true, fun _ => rfl, .irq true⟩
  | .iret, h, _ => absurd rfl h
  | .svc, _, h => absurd rfl h
  | .inR16 r, _, _ => ⟨input 2 (.reg r), fun _ => rfl, .inp 2 (.reg r)⟩
  | .inRa m, _, _ => ⟨input 3 (.mem (.indexed m)), fun _ => rfl, .inp 3 (.mem (.indexed m))⟩
  | .inAd a, _, _ => ⟨input 3 (.mem (.direct a)), fun _ => rfl, .inp 3 (.mem (.direct a))⟩
  | .inW v, _, _ => ⟨input 3 (.imm v), fun _ => rfl, .inp 3 (.imm v)⟩
  | .outR16 r, _, _ => ⟨output 2 (.reg r), fun _ => rfl, .out 2 (.reg r)⟩
  | .outRa m, _, _ => ⟨output 3 (.mem (.indexed m)), fun _ => rfl, .out 3 (.mem (.indexed m))⟩
  | .outAd a, _, _ => ⟨output 3 (.mem (.direct a)), fun _ => rfl, .out 3 (.mem (.direct a))⟩
  | .outW v, _, _ => ⟨output 3 (.imm v), fun _ => rfl, .out 3 (.imm v)⟩

/-! ### How far decoding reads -/

theorem Operand.size_eq_length (o : Operand) : o.size = (encodeOperand o).length := by cases o <;> rfl

theorem operandBytesRead_le (l : List Operand) : operandBytesRead l ≤ (l.flatMap encodeOperand).length := by
  induction l with
  | nil => exact Nat.le_refl 0
  | cons o l ih =>
    simp only [operandBytesRead, List.flatMap_cons, List.length_append, Operand.size_eq_length]
    split <;> omega

theorem operandBytesRead_of_legal {l : List Operand} (h : l.all baseLegal = true) :
    operandBytesRead l = (l.flatMap encodeOperand).length := by
  induction l with
  | nil => rfl
  | cons o l ih =>
    simp only [List.all_cons, Bool.and_eq_true] at h
    simp only [operandBytesRead, h.1, if_true, List.flatMap_cons, List.length_append, Operand.size_eq_length, ih h.2]

/-- Decoding reads no byte beyond the encoding. -/
theorem bytesRead_le (i : Instr) : bytesRead i ≤ (encode i).length := by
  have := operandBytesRead_le i.operands
  simp only [bytesRead, encode, List.length_cons]
  omega

/-- With legal bases decoding reads the whole encoding. -/
theorem bytesRead_of_legal {i : Instr} (h : basesLegal i = true) : bytesRead i = (encode i).length := by
  simp only [bytesRead, encode, List.length_cons, operandBytesRead_of_legal h]
  omega

end Sys2Proof.Machine
end

