-- ==== Sys2Proof/Laws/Memory.lean ====
section
/-! SUPPORT. Memory: a read after a write, and every operation keeps the canonical form; the list of `EXT_IO` values. -/

namespace Sys2Proof.Machine

theorem Memory.read_erase (m : Memory) (n k : Nat) :
    Memory.read (Memory.erase m n) k = if k = n then unlistedByte else Memory.read m k := by
  induction m with
  | nil => simp [Memory.erase, Memory.read]
  | cons e m ih =>
    obtain ⟨j, v⟩ := e
    simp only [Memory.erase]
    split
    · next h => rw [ih]; split
                · rfl
                · next hk => simp [Memory.read, show ¬ j = k by omega]
    · next h =>
      simp only [Memory.read, ih]
      split
      · next hj => simp [show ¬ k = n by omega]
      · rfl

theorem Memory.mem_erase_ne (m : Memory) (n : Nat) : ∀ e ∈ Memory.erase m n, e.1 ≠ n := by
  induction m with
  | nil => simp [Memory.erase]
  | cons e m ih =>
    obtain ⟨j, v⟩ := e
    simp only [Memory.erase]
    split
    · exact ih
    · next h =>
      intro e he
      rcases List.mem_cons.mp he with rfl | he
      · exact h
      · exact ih e he

theorem Memory.read_insert (m : Memory) (n : Nat) (w : Byte) (k : Nat) (hm : ∀ e ∈ m, e.1 ≠ n) :
    Memory.read (Memory.insert m n w) k = if k = n then w else Memory.read m k := by
  induction m with
  | nil =>
    by_cases h : k = n <;> simp [Memory.insert, Memory.read, h, eq_comm]
    omega
  | cons e m ih =>
    obtain ⟨j, v⟩ := e
    have hj : j ≠ n := hm (j, v) (by simp)
    have ih' := ih (fun e he => hm e (by simp [he]))
    simp only [Memory.insert]
    split
    · by_cases h : k = n
      · simp [Memory.read, h]
      · simp [Memory.read, show ¬ n = k by omega, h]
    · simp only [Memory.read, ih']
      by_cases h : j = k
      · simp [h, show ¬ k = n by omega]
      · simp [h]

/-- A read after a write: the written address gives the value written, every other address what it gave before. -/
theorem Memory.read_write (m : Memory) (n : Nat) (w : Byte) (k : Nat) :
    Memory.read (Memory.write m n w) k = if k = n then w else Memory.read m k := by
  unfold Memory.write
  split
  · next h => rw [Memory.read_erase, h]
  · rw [Memory.read_insert _ n w k (Memory.mem_erase_ne m n), Memory.read_erase]
    split <;> simp_all

@[simp] theorem Memory.read_write_same (m : Memory) (n : Nat) (w : Byte) : Memory.read (Memory.write m n w) n = w := by
  simp [Memory.read_write]

theorem Memory.read_write_other (m : Memory) (n : Nat) (w : Byte) (k : Nat) (h : k ≠ n) :
    Memory.read (Memory.write m n w) k = Memory.read m k := by
  simp [Memory.read_write, h]

theorem Memory.wfFrom_mono (top lo lo' : Nat) (m : Memory) (h : Memory.wfFrom top lo m = true) (hl : lo' ≤ lo) :
    Memory.wfFrom top lo' m = true := by
  cases m with
  | nil => rfl
  | cons e m =>
    obtain ⟨j, v⟩ := e
    simp only [Memory.wfFrom, Bool.and_eq_true, decide_eq_true_eq] at h ⊢
    exact ⟨⟨⟨by omega, h.1.1.2⟩, h.1.2⟩, h.2⟩

theorem Memory.wfFrom_erase (top lo : Nat) (m : Memory) (n : Nat) (h : Memory.wfFrom top lo m = true) :
    Memory.wfFrom top lo (Memory.erase m n) = true := by
  induction m generalizing lo with
  | nil => rfl
  | cons e m ih =>
    obtain ⟨j, v⟩ := e
    simp only [Memory.wfFrom, Bool.and_eq_true, decide_eq_true_eq] at h
    simp only [Memory.erase]
    split
    · exact Memory.wfFrom_mono top (j + 1) lo _ (ih (j + 1) h.2) (by omega)
    · simp only [Memory.wfFrom, Bool.and_eq_true, decide_eq_true_eq]
      exact ⟨h.1, ih (j + 1) h.2⟩

theorem Memory.wfFrom_insert (top lo : Nat) (m : Memory) (n : Nat) (w : Byte) (h : Memory.wfFrom top lo m = true)
    (hn : ∀ e ∈ m, e.1 ≠ n) (hlo : lo ≤ n) (htop : n < top) (hw : w ≠ unlistedByte) :
    Memory.wfFrom top lo (Memory.insert m n w) = true := by
  induction m generalizing lo with
  | nil => simp [Memory.insert, Memory.wfFrom, hlo, htop, hw]
  | cons e m ih =>
    obtain ⟨j, v⟩ := e
    have hj : j ≠ n := hn (j, v) (by simp)
    simp only [Memory.wfFrom, Bool.and_eq_true, decide_eq_true_eq] at h
    simp only [Memory.insert]
    split
    · next hlt =>
      simp only [Memory.wfFrom, Bool.and_eq_true, decide_eq_true_eq]
      exact ⟨⟨⟨hlo, htop⟩, hw⟩, ⟨⟨by omega, h.1.1.2⟩, h.1.2⟩, h.2⟩
    · next hlt =>
      simp only [Memory.wfFrom, Bool.and_eq_true, decide_eq_true_eq]
      exact ⟨h.1, ih (j + 1) h.2 (fun e he => hn e (by simp [he])) (by omega)⟩

/-- A write inside memory keeps the canonical form. -/
theorem Memory.wf_write (top : Nat) (m : Memory) (n : Nat) (w : Byte) (h : Memory.wf top m = true) (hn : n < top) :
    Memory.wf top (Memory.write m n w) = true := by
  unfold Memory.write Memory.wf
  split
  · exact Memory.wfFrom_erase top 0 m n h
  · next hw =>
    exact Memory.wfFrom_insert top 0 _ n w (Memory.wfFrom_erase top 0 m n h) (Memory.mem_erase_ne m n) (Nat.zero_le n) hn hw

theorem Memory.read_below (top lo : Nat) (m : Memory) (h : Memory.wfFrom top lo m = true) (n : Nat) (hn : n < lo) :
    Memory.read m n = unlistedByte := by
  induction m generalizing lo with
  | nil => rfl
  | cons e m ih =>
    obtain ⟨j, v⟩ := e
    simp only [Memory.wfFrom, Bool.and_eq_true, decide_eq_true_eq] at h
    simp only [Memory.read, show ¬ j = n by omega, if_false]
    exact ih (j + 1) h.2 (by omega)

theorem Memory.eq_of_read_from (top lo : Nat) (m m' : Memory) (h : Memory.wfFrom top lo m = true)
    (h' : Memory.wfFrom top lo m' = true) (hr : ∀ n, Memory.read m n = Memory.read m' n) : m = m' := by
  induction m generalizing lo m' with
  | nil =>
    cases m' with
    | nil => rfl
    | cons e m' =>
      obtain ⟨j, v⟩ := e
      simp only [Memory.wfFrom, Bool.and_eq_true, decide_eq_true_eq] at h'
      have := hr j
      simp only [Memory.read, if_true] at this
      exact absurd this.symm h'.1.2
  | cons e m ih =>
    obtain ⟨j, v⟩ := e
    simp only [Memory.wfFrom, Bool.and_eq_true, decide_eq_true_eq] at h
    cases m' with
    | nil =>
      have := hr j
      simp only [Memory.read, if_true] at this
      exact absurd this h.1.2
    | cons e' m' =>
      obtain ⟨j', v'⟩ := e'
      simp only [Memory.wfFrom, Bool.and_eq_true, decide_eq_true_eq] at h'
      have hj : j = j' := by
        rcases Nat.lt_trichotomy j j' with hlt | heq | hgt
        · have := hr j
          simp only [Memory.read, if_true, show ¬ j' = j by omega, if_false] at this
          rw [Memory.read_below top (j' + 1) m' h'.2 j (by omega)] at this
          exact absurd this h.1.2
        · exact heq
        · have := hr j'
          simp only [Memory.read, if_true, show ¬ j = j' by omega, if_false] at this
          rw [Memory.read_below top (j + 1) m h.2 j' (by omega)] at this
          exact absurd this.symm h'.1.2
      subst hj
      have hv : v = v' := by simpa [Memory.read] using hr j
      subst hv
      have : m = m' := by
        refine ih (j + 1) m' h.2 h'.2 (fun n => ?_)
        by_cases hn : j = n
        · rw [Memory.read_below top (j + 1) m h.2 n (by omega), Memory.read_below top (j + 1) m' h'.2 n (by omega)]
        · simpa [Memory.read, hn] using hr n
      rw [this]

/-- Canonical memories with the same bytes are the same list. -/
theorem Memory.eq_of_read (top : Nat) (m m' : Memory) (h : Memory.wf top m = true) (h' : Memory.wf top m' = true)
    (hr : ∀ n, Memory.read m n = Memory.read m' n) : m = m' :=
  Memory.eq_of_read_from top 0 m m' h h' hr

/-- Empty memory is canonical. -/
@[simp] theorem Memory.wf_nil (top : Nat) : Memory.wf top [] = true := rfl

/-- A store to an `EXT_IO` value leaves the addresses as they are. -/
@[simp] theorem extStore_keys (l : List (Word × Word)) (x w : Word) : (extStore l x w).map Prod.fst = l.map Prod.fst := by
  induction l with
  | nil => rfl
  | cons e l ih => obtain ⟨k, v⟩ := e; simp only [extStore, List.map_cons, ih]; split <;> rfl

/-- Looking up after a store: the stored value at a listed address, what was there elsewhere. -/
theorem extLookup_extStore (l : List (Word × Word)) (x w y : Word) :
    extLookup (extStore l x w) y = if y = x then (extLookup l y).map (fun _ => w) else extLookup l y := by
  induction l with
  | nil => simp [extStore, extLookup]
  | cons e l ih =>
    obtain ⟨k, v⟩ := e
    simp only [extStore]
    by_cases hk : k = x
    · by_cases hy : y = x
      · simp [hk, hy, extLookup]
      · have : ¬ x = y := fun h => hy h.symm
        simp [hk, hy, extLookup, this, ih]
    · by_cases hky : k = y
      · have : ¬ y = x := fun h => hk (hky.trans h)
        simp [extLookup, hky, this]
      · simp [hk, extLookup, hky, ih]

end Sys2Proof.Machine
end

