-- ==== Sys2Proof/Laws/Ops.lean ====
section
/-! SUPPORT. One law or two for each shared operation: what it answers, and when. -/

namespace Sys2Proof.Machine

/-! ### Register indices -/

theorem isReg16_cases {i : RegIdx} (h : isReg16 i = true) : i = 0 ∨ i = 1 ∨ i = 2 ∨ i = 3 ∨ i = 4 := by
  simp only [isReg16, decide_eq_true_eq] at h
  bv_omega

theorem isReg8_cases {i : RegIdx} (h : isReg8 i = true) :
    i = 9 ∨ i = 10 ∨ i = 11 ∨ i = 12 ∨ i = 13 ∨ i = 14 ∨ i = 15 ∨ i = 16 := by
  simp only [isReg8, Bool.and_eq_true, decide_eq_true_eq] at h
  bv_omega

@[simp] theorem requireReg16_ok {i : RegIdx} (h : isReg16 i = true) : requireReg16 i = .ok () := by simp [requireReg16, h]
@[simp] theorem requireReg8_ok {i : RegIdx} (h : isReg8 i = true) : requireReg8 i = .ok () := by simp [requireReg8, h]
@[simp] theorem requireSupervisor_ok {s : State} (h : s.supervisor = true) : requireSupervisor s = .ok () := by
  simp [requireSupervisor, h]

theorem sp_setSp (s : State) (v : Word) : (s.setSp v).sp = v := by
  have h : (s.setSp v).supervisor = s.supervisor := by simp [State.supervisor]
  unfold State.sp
  rw [h]
  cases hs : s.supervisor <;> simp [hs]

@[simp] theorem supervisor_setReg16 (s : State) (i : RegIdx) (v : Word) : (s.setReg16 i v).supervisor = s.supervisor :=
  supervisor_of_sr (by simp)
@[simp] theorem supervisor_setReg8 (s : State) (i : RegIdx) (v : Byte) : (s.setReg8 i v).supervisor = s.supervisor :=
  supervisor_of_sr (by simp)
@[simp] theorem supervisor_setSp (s : State) (v : Word) : (s.setSp v).supervisor = s.supervisor := supervisor_of_sr (by simp)
@[simp] theorem supervisor_advance (s : State) (k : Nat) : (s.advance k).supervisor = s.supervisor := supervisor_of_sr (by simp)
@[simp] theorem supervisor_clearError (s : State) : s.clearError.supervisor = s.supervisor := rfl
@[simp] theorem supervisor_poke (s : State) (x : Int) (v : Byte) : (s.poke x v).supervisor = s.supervisor :=
  supervisor_of_sr (by simp)

/-- Reading the register just written. -/
theorem reg16_setReg16_same (s : State) (i : RegIdx) (v : Word) (h : isReg16 i = true) : (s.setReg16 i v).reg16 i = v := by
  rcases isReg16_cases h with rfl | rfl | rfl | rfl | rfl
  · rfl
  · rfl
  · rfl
  · rfl
  · exact sp_setSp s v

/-- Reading another register. -/
theorem reg16_setReg16_other (s : State) (i j : RegIdx) (v : Word) (h : isReg16 i = true) (hj : isReg16 j = true) (hne : j ≠ i) :
    (s.setReg16 i v).reg16 j = s.reg16 j := by
  rcases isReg16_cases h with rfl | rfl | rfl | rfl | rfl <;>
    rcases isReg16_cases hj with rfl | rfl | rfl | rfl | rfl <;>
      first
        | exact absurd rfl hne
        | rfl
        | (simp only [State.setReg16, State.reg16]; simp)

/-- A 16-bit write leaves the stack pointer that SP does not name. -/
theorem otherSp_setReg16 (s : State) (i : RegIdx) (v : Word) (h : isReg16 i = true) : OtherSpSame s (s.setReg16 i v) := by
  unfold OtherSpSame
  rcases isReg16_cases h with rfl | rfl | rfl | rfl | rfl <;> cases hs : s.supervisor <;> simp [State.setReg16, hs]

/-- Reading the half just written. -/
theorem reg8_setReg8_same (s : State) (i : RegIdx) (v : Byte) (h : isReg8 i = true) : (s.setReg8 i v).reg8 i = v := by
  rcases isReg8_cases h with rfl | rfl | rfl | rfl | rfl | rfl | rfl | rfl <;> simp [State.setReg8, State.reg8]

/-- Reading another half. -/
theorem reg8_setReg8_other (s : State) (i j : RegIdx) (v : Byte) (h : isReg8 i = true) (hj : isReg8 j = true) (hne : j ≠ i) :
    (s.setReg8 i v).reg8 j = s.reg8 j := by
  rcases isReg8_cases h with rfl | rfl | rfl | rfl | rfl | rfl | rfl | rfl <;>
    rcases isReg8_cases hj with rfl | rfl | rfl | rfl | rfl | rfl | rfl | rfl <;>
      first
        | exact absurd rfl hne
        | simp [State.setReg8, State.reg8]

/-! ### Memory -/

theorem inBounds_iff (s : State) (x : Int) : s.inBounds x = true ↔ 0 ≤ x ∧ x < (s.cfg.memSize : Int) := by
  simp [State.inBounds]

theorem inBounds_congr {s t : State} (h : t.cfg = s.cfg) (x : Int) : t.inBounds x = s.inBounds x := by simp [State.inBounds, h]

theorem byteAt_poke (s : State) (x y : Int) (v : Byte) (hx : 0 ≤ x) (hy : 0 ≤ y) :
    (s.poke x v).byteAt y = if y = x then v else s.byteAt y := by
  simp only [State.byteAt, State.poke_mem, Memory.read_write]
  have : y.toNat = x.toNat ↔ y = x := by omega
  simp [this]

theorem writable_congr {s t : State} (h : t.cfg = s.cfg) (x : Int) (k : Nat) : Writable t x k ↔ Writable s x k := by
  simp [Writable, State.inBounds, h]

theorem checkWrite_of_writable {s : State} {x : Int} {k : Nat} (h : Writable s x k) (j : Nat) (hj : j < k) :
    checkWrite s (x + (j : Int)) = .ok () := by
  obtain ⟨hb, hp⟩ := h j hj
  simp [checkWrite, hb, hp]

/-- A one-byte write that passes its checks. -/
theorem memWrite8_of_writable {s : State} {x : Int} (v : Byte) (h : Writable s x 1) : memWrite8 s x v = .ok (s.poke x v) := by
  have h0 := checkWrite_of_writable h 0 (by decide)
  simp only [Nat.cast_zero, add_zero] at h0
  simp only [memWrite8, h0]
  rfl

/-- A word write that passes its checks. -/
theorem memWrite16_of_writable {s : State} {x : Int} (v : Word) (h : Writable s x 2) :
    memWrite16 s x v = .ok ((s.poke x (hiByte v)).poke (x + 1) (loByte v)) := by
  have h0 := checkWrite_of_writable h 0 (by decide)
  have h1 := checkWrite_of_writable h 1 (by decide)
  simp only [Nat.cast_zero, add_zero, Nat.cast_one] at h0 h1
  simp only [memWrite16, h0, h1]
  rfl

theorem checkWrite_ok {s : State} {x : Int} (h : checkWrite s x = .ok ()) :
    s.inBounds x = true ∧ Config.permAt s.cfg x = .rw := by
  unfold checkWrite at h
  split at h
  · next hb =>
    split at h
    · cases h
    · next hp =>
      refine ⟨hb, ?_⟩
      cases hq : Config.permAt s.cfg x
      · rfl
      · exact absurd hq hp
  · cases h

/-- Everything a one-byte write can do. -/
theorem memWrite8_ok {s t : State} {x : Int} {v : Byte} (h : memWrite8 s x v = .ok t) : Writable s x 1 ∧ t = s.poke x v := by
  unfold memWrite8 at h
  cases hc : checkWrite s x with
  | error e => rw [hc] at h; cases h
  | ok u =>
    rw [hc] at h
    cases h
    refine ⟨?_, rfl⟩
    intro j hj
    have : j = 0 := by omega
    subst this
    simpa using checkWrite_ok hc

/-- Everything a word write can do. -/
theorem memWrite16_ok {s t : State} {x : Int} {v : Word} (h : memWrite16 s x v = .ok t) :
    Writable s x 2 ∧ t = (s.poke x (hiByte v)).poke (x + 1) (loByte v) := by
  unfold memWrite16 at h
  cases hc : checkWrite s x with
  | error e => rw [hc] at h; cases h
  | ok u =>
    cases hd : checkWrite s (x + 1) with
    | error e => rw [hc, hd] at h; cases h
    | ok u =>
      rw [hc, hd] at h
      cases h
      refine ⟨?_, rfl⟩
      intro j hj
      have : j = 0 ∨ j = 1 := by omega
      rcases this with rfl | rfl
      · simpa using checkWrite_ok hc
      · simpa using checkWrite_ok hd

theorem memRead8_of_readable {s : State} {x : Int} (h : Readable s x 1) : memRead8 s x = .ok (s.byteAt x) := by
  have h0 := h 0 (by decide)
  simp only [Nat.cast_zero, add_zero] at h0
  simp [memRead8, h0]

theorem memRead16_of_readable {s : State} {x : Int} (h : Readable s x 2) : memRead16 s x = .ok (s.wordAt x) := by
  have h0 := h 0 (by decide)
  have h1 := h 1 (by decide)
  simp only [Nat.cast_zero, add_zero, Nat.cast_one] at h0 h1
  simp [memRead16, h0, h1, State.wordAt]

/-! ### Effective addresses -/

theorem effectiveAddress_of_base (s : State) (m : RegAddr) (h : isReg16 m.base = true) :
    effectiveAddress s m = .ok (((s.reg16 m.base).toNat : Int) + sext8 m.offset) := by
  simp only [effectiveAddress, requireReg16_ok h]
  rfl

/-! ### The stack -/

theorem push16_of_writable {s : State} (v : Word) (h : Writable s ((s.sp.toNat : Int) - 1) 2) :
    push16 s v = .ok (((s.poke ((s.sp.toNat : Int) - 1) (hiByte v)).poke (s.sp.toNat : Int) (loByte v)).setSp
      (wordOfInt ((s.sp.toNat : Int) - 2))) := by
  have hx : (s.sp.toNat : Int) - 1 + 1 = (s.sp.toNat : Int) := by omega
  simp only [push16, memWrite16_of_writable v h, stackAccess, hx]
  rfl

theorem push8_of_writable {s : State} (v : Byte) (h : Writable s (s.sp.toNat : Int) 1) :
    push8 s v = .ok ((s.poke (s.sp.toNat : Int) v).setSp (wordOfInt ((s.sp.toNat : Int) - 1))) := by
  simp only [push8, memWrite8_of_writable v h, stackAccess]
  rfl

/-- Everything a word push can do. -/
theorem push16_ok {s t : State} {v : Word} (h : push16 s v = .ok t) :
    Writable s ((s.sp.toNat : Int) - 1) 2 ∧
      t = ((s.poke ((s.sp.toNat : Int) - 1) (hiByte v)).poke (s.sp.toNat : Int) (loByte v)).setSp
        (wordOfInt ((s.sp.toNat : Int) - 2)) := by
  unfold push16 at h
  cases hw : memWrite16 s ((s.sp.toNat : Int) - 1) v with
  | error e => rw [hw] at h; cases h
  | ok u =>
    rw [hw] at h
    obtain ⟨hwr, rfl⟩ := memWrite16_ok hw
    cases h
    refine ⟨hwr, ?_⟩
    have hx : (s.sp.toNat : Int) - 1 + 1 = (s.sp.toNat : Int) := by omega
    rw [hx]

/-- A push that fails raises StackAccessError, whatever failed. -/
theorem push16_error {s : State} {v : Word} {e : Exc} (h : push16 s v = .error e) : e = .stackAccess := by
  unfold push16 at h
  cases hw : memWrite16 s ((s.sp.toNat : Int) - 1) v with
  | error e' => rw [hw] at h; cases h; rfl
  | ok u => rw [hw] at h; cases h

theorem pop16_of_readable {s : State} (h : Readable s ((s.sp.toNat : Int) + 1) 2) :
    pop16 s = .ok (s.wordAt ((s.sp.toNat : Int) + 1), s.setSp (wordOfInt ((s.sp.toNat : Int) + 2))) := by
  simp only [pop16, memRead16_of_readable h, stackAccess]
  rfl

theorem pop8_of_readable {s : State} (h : Readable s ((s.sp.toNat : Int) + 1) 1) :
    pop8 s = .ok (s.byteAt ((s.sp.toNat : Int) + 1), s.setSp (wordOfInt ((s.sp.toNat : Int) + 1))) := by
  simp only [pop8, memRead8_of_readable h, stackAccess]
  rfl

/-! ### How an instruction ends -/

@[simp] theorem conclude_ok (s t : State) : conclude s (.ok t) = .next t.clearError := rfl
@[simp] theorem conclude_error (s : State) (e : Exc) : conclude s (.error e) = .next (takeException e s) := rfl

/-- In supervisor mode an exception is fatal (60_exceptions R491). -/
theorem takeException_supervisor (e : Exc) (s : State) (h : s.supervisor = true) : takeException e s = goToFault e s := by
  simp [takeException, h]

/-- An exception from user mode: its frame, or FAULT (60_exceptions R489, R492). -/
theorem takeException_user (e : Exc) (s : State) (h : s.supervisor = false) :
    (∃ t, enterTrap (exceptionWords e s) excVector s = some t ∧ takeException e s = t.clearError) ∨
      (enterTrap (exceptionWords e s) excVector s = none ∧ takeException e s = goToFault e s) := by
  cases ht : enterTrap (exceptionWords e s) excVector s with
  | none => exact .inr ⟨rfl, by simp [takeException, h, ht]⟩
  | some t => exact .inl ⟨t, rfl, by simp [takeException, h, ht]⟩

end Sys2Proof.Machine
end

