-- ==== Sys2Proof/Laws/Traps.lean ====
section
/-! SUPPORT. Trap entry and the trap return: what they leave when the frame fits, and what they can change at all. -/

namespace Sys2Proof.Machine

theorem sp_of_supervisor {s : State} (h : s.supervisor = true) : s.sp = s.ssp := by simp [State.sp, h]
theorem sp_of_user {s : State} (h : s.supervisor = false) : s.sp = s.usp := by simp [State.sp, h]

theorem wordOfInt_toNat_sub (w : Word) (k : Nat) : wordOfInt ((w.toNat : Int) - (k : Int)) = w - BitVec.ofNat 16 k := by
  apply BitVec.eq_of_toInt_eq
  simp only [wordOfInt, BitVec.toInt_ofInt, BitVec.toInt_sub, BitVec.toInt_ofNat']
  rw [BitVec.toInt_eq_toNat_bmod]
  simp

theorem wordOfInt_toNat_add (w : Word) (k : Nat) : wordOfInt ((w.toNat : Int) + (k : Int)) = w + BitVec.ofNat 16 k := by
  apply BitVec.eq_of_toInt_eq
  simp only [wordOfInt, BitVec.toInt_ofInt, BitVec.toInt_add, BitVec.toInt_ofNat']
  rw [BitVec.toInt_eq_toNat_bmod]
  simp

/-- What a push on the supervisor stack changes: SSP and memory (60_exceptions R486). -/
structure OnlyStack (s t : State) : Prop where
  cfg : t.cfg = s.cfg
  a : t.a = s.a
  b : t.b = s.b
  c : t.c = s.c
  d : t.d = s.d
  usp : t.usp = s.usp
  ip : t.ip = s.ip
  sr : t.sr = s.sr
  devices : SameDevices s t
  stepError : t.stepError = s.stepError

theorem OnlyStack.refl (s : State) : OnlyStack s s :=
  ⟨rfl, rfl, rfl, rfl, rfl, rfl, rfl, rfl, ⟨rfl, rfl, rfl, rfl, rfl, rfl, rfl, rfl, rfl⟩, rfl⟩

theorem SameDevices.trans {s t u : State} (h : SameDevices s t) (g : SameDevices t u) : SameDevices s u := by
  obtain ⟨h1, h2, h3, h4, h5, h6, h7, h8, h9⟩ := h
  obtain ⟨g1, g2, g3, g4, g5, g6, g7, g8, g9⟩ := g
  exact ⟨g1.trans h1, g2.trans h2, g3.trans h3, g4.trans h4, g5.trans h5, g6.trans h6, g7.trans h7, g8.trans h8, g9.trans h9⟩

theorem OnlyStack.trans {s t u : State} (h : OnlyStack s t) (g : OnlyStack t u) : OnlyStack s u where
  cfg := g.cfg.trans h.cfg
  a := g.a.trans h.a
  b := g.b.trans h.b
  c := g.c.trans h.c
  d := g.d.trans h.d
  usp := g.usp.trans h.usp
  ip := g.ip.trans h.ip
  sr := g.sr.trans h.sr
  devices := h.devices.trans g.devices
  stepError := g.stepError.trans h.stepError

theorem OnlyStack.supervisor {s t : State} (h : OnlyStack s t) : t.supervisor = s.supervisor := supervisor_of_sr h.sr

theorem push16_onlyStack {s t : State} {v : Word} (hs : s.supervisor = true) (h : push16 s v = .ok t) : OnlyStack s t := by
  obtain ⟨-, rfl⟩ := push16_ok h
  constructor <;> simp [hs, SameDevices]

/-- Everything a series of pushes on the supervisor stack can change. -/
theorem pushAll_onlyStack {ws : List Word} {s t : State} (hs : s.supervisor = true) (h : pushAll ws s = .ok t) : OnlyStack s t := by
  induction ws generalizing s with
  | nil => cases h; exact OnlyStack.refl _
  | cons w ws ih =>
    simp only [pushAll] at h
    cases hp : push16 s w with
    | error e => rw [hp] at h; cases h
    | ok u =>
      rw [hp] at h
      have hu := push16_onlyStack hs hp
      exact hu.trans (ih (hu.supervisor.trans hs) h)

theorem frameSlot_zero (top : Word) : frameSlot top 0 = (top.toNat : Int) - 1 := by simp [frameSlot]

theorem frameSlot_succ (top : Word) (k : Nat) : frameSlot (top - 2#16) k = frameSlot top (k + 1) := by
  unfold frameSlot
  congr 3
  apply BitVec.eq_of_toNat_eq
  simp only [BitVec.toNat_sub, BitVec.toNat_ofNat]
  omega

/-- Words of one frame do not overlap. -/
theorem frameSlot_apart (top : Word) (k : Nat) (hk : 0 < k) (hk' : 2 * k < 65536) :
    frameSlot top k + 1 < frameSlot top 0 ∨ frameSlot top 0 + 1 < frameSlot top k := by
  simp only [frameSlot, BitVec.toNat_sub, BitVec.toNat_ofNat] at *
  have := top.isLt
  omega

/-- What a push on the supervisor stack leaves. -/
theorem push16_supervisor {s t : State} {w : Word} (hs : s.supervisor = true) (h : push16 s w = .ok t) :
    Writable s (frameSlot s.ssp 0) 2 ∧ OnlyStack s t ∧ t.ssp = s.ssp - 2#16 ∧ t.wordAt (frameSlot s.ssp 0) = w ∧
      ∀ x : Nat, ((x : Int) ≠ frameSlot s.ssp 0 ∧ (x : Int) ≠ frameSlot s.ssp 0 + 1) → t.mem.read x = s.mem.read x := by
  have hos := push16_onlyStack hs h
  obtain ⟨hw, ht⟩ := push16_ok h
  rw [sp_of_supervisor hs] at hw ht
  rw [frameSlot_zero]
  have hlow : 0 ≤ (s.ssp.toNat : Int) - 1 := by
    have := (hw 0 (by omega)).1
    rw [inBounds_iff] at this
    simpa using this.1
  refine ⟨hw, hos, ?_, ?_, ?_⟩
  · have := wordOfInt_toNat_sub s.ssp 2
    simp only [Nat.cast_ofNat] at this
    rw [ht, State.setSp_ssp]
    simp [hs, this]
  · unfold State.wordAt State.byteAt
    rw [ht, State.setSp_mem, State.poke_mem, State.poke_mem]
    have e1 : ((s.ssp.toNat : Int) - 1 + 1).toNat = (s.ssp.toNat : Int).toNat := by omega
    rw [e1, Memory.read_write_other _ _ _ _ (by omega), Memory.read_write_same, Memory.read_write_same]
    simp
  · intro x hx
    rw [ht, State.setSp_mem, State.poke_mem, State.poke_mem, Memory.read_write_other _ _ _ _ (by omega),
      Memory.read_write_other _ _ _ _ (by omega)]

/-- A push on the supervisor stack whose word fits. -/
theorem push16_of_slot {s : State} (w : Word) (hs : s.supervisor = true) (hw : Writable s (frameSlot s.ssp 0) 2) :
    ∃ t, push16 s w = .ok t := by
  rw [frameSlot_zero, ← sp_of_supervisor hs] at hw
  exact ⟨_, push16_of_writable w hw⟩

theorem frameFits_tail {s t : State} {n : Nat} (hcfg : t.cfg = s.cfg) (hssp : t.ssp = s.ssp - 2#16) (h : FrameFits s (n + 1)) :
    FrameFits t n := by
  intro k hk
  rw [writable_congr hcfg, hssp, frameSlot_succ]
  exact h (k + 1) (by omega)

/-- The frame that a series of pushes leaves when it fits. -/
theorem pushAll_of_fits (ws : List Word) (s : State) (hs : s.supervisor = true) (hlen : 2 * ws.length < 65536)
    (hw : FrameFits s ws.length) :
    ∃ t, pushAll ws s = .ok t ∧ OnlyStack s t ∧ t.ssp = s.ssp - BitVec.ofNat 16 (2 * ws.length) ∧
      HoldsFrame t s.ssp ws ∧ SameMemoryOutsideFrame s.ssp ws.length s t := by
  induction ws generalizing s with
  | nil => exact ⟨s, rfl, OnlyStack.refl s, by simp, fun k h => absurd h (Nat.not_lt_zero k), fun _ _ => rfl⟩
  | cons w ws ih =>
    have hcons : (w :: ws).length = ws.length + 1 := rfl
    rw [hcons] at hw hlen ⊢
    have hslot : ∀ k, k < ws.length + 1 → 0 ≤ frameSlot s.ssp k := by
      intro k hk
      have := (hw k hk 0 (by omega)).1
      rw [inBounds_iff] at this
      simpa using this.1
    obtain ⟨u, hp⟩ := push16_of_slot w hs (hw 0 (by omega))
    obtain ⟨-, hus, hussp, huw, hum⟩ := push16_supervisor hs hp
    obtain ⟨t, ht, hot, hssp, hframe, hout⟩ :=
      ih u (hus.supervisor.trans hs) (by omega) (frameFits_tail hus.cfg hussp hw)
    have hkeep : ∀ x : Nat, ((x : Int) = frameSlot s.ssp 0 ∨ (x : Int) = frameSlot s.ssp 0 + 1) → t.mem.read x = u.mem.read x := by
      intro x hx
      refine hout x (fun k hk => ?_)
      rw [hussp, frameSlot_succ]
      have := frameSlot_apart s.ssp (k + 1) (by omega) (by omega)
      omega
    have h0 := hslot 0 (by omega)
    refine ⟨t, ?_, hus.trans hot, ?_, ?_, ?_⟩
    · simp only [pushAll, hp]; exact ht
    · rw [hssp, hussp]
      apply BitVec.eq_of_toNat_eq
      simp only [BitVec.toNat_sub, BitVec.toNat_ofNat]
      omega
    · intro k hk
      cases k with
      | zero =>
        show t.wordAt (frameSlot s.ssp 0) = w
        rw [← huw]
        unfold State.wordAt State.byteAt
        rw [hkeep _ (by omega), hkeep _ (by omega)]
      | succ k =>
        rw [← frameSlot_succ, ← hussp]
        exact hframe k (by simpa using hk)
    · intro x hx
      rw [hout x (fun k hk => by rw [hussp, frameSlot_succ]; exact hx (k + 1) (by omega))]
      exact hum x (hx 0 (by omega))

/-- A series of pushes succeeds only when the frame fits. -/
theorem fits_of_pushAll (ws : List Word) (s t : State) (hs : s.supervisor = true) (h : pushAll ws s = .ok t) : FrameFits s ws.length := by
  induction ws generalizing s with
  | nil => intro k hk; exact absurd hk (Nat.not_lt_zero k)
  | cons w ws ih =>
    simp only [pushAll] at h
    cases hp : push16 s w with
    | error e => rw [hp] at h; cases h
    | ok u =>
      rw [hp] at h
      obtain ⟨hw, hus, hussp, -, -⟩ := push16_supervisor hs hp
      have := ih u (hus.supervisor.trans hs) h
      intro k hk
      cases k with
      | zero => exact hw
      | succ k =>
        have := this k (by simpa using hk)
        rwa [writable_congr hus.cfg, hussp, frameSlot_succ] at this

/-- Everything a trap entry can change. -/
theorem enterTrap_some {words : List Word} {vector : Word} {s t : State} (h : enterTrap words vector s = some t) :
    ∃ u, OnlyStack (s.setSupervisor true) u ∧ t = { u with ip := vector } := by
  unfold enterTrap at h
  cases hp : pushAll words (s.setSupervisor true) with
  | error e => rw [hp] at h; cases h
  | ok u => rw [hp] at h; cases h; exact ⟨u, pushAll_onlyStack (by simp) hp, rfl⟩

theorem onlySrBits_setSupervisor (s : State) (v : Bool) : OnlySrBits [15] s (s.setSupervisor v) := by
  intro n hn
  exact setBit_other _ _ _ _ (by simpa using hn)

/-- A trap entry whose frame fits (60_exceptions R486, R490). -/
theorem enterTrap_of_fits (words : List Word) (vector : Word) (s : State) (hlen : 2 * words.length < 65536)
    (hw : FrameFits s words.length) :
    ∃ t, enterTrap words vector s = some t ∧ Entered words vector [15] s t ∧ t.stepError = s.stepError := by
  obtain ⟨u, hu, hos, hssp, hframe, hout⟩ := pushAll_of_fits words (s.setSupervisor true) (by simp) hlen hw
  refine ⟨{ u with ip := vector }, ?_, ?_, hos.stepError⟩
  · simp [enterTrap, hu]
  · have hsup : ({ u with ip := vector } : State).supervisor = true := by
      have := hos.supervisor
      rw [supervisor_setSupervisor] at this
      exact this
    refine ⟨hsup, rfl, hssp, hframe, hos.a, hos.b, hos.c, hos.d, hos.usp, ?_, hout, hos.devices⟩
    intro n hn
    show u.sr.getLsbD n = s.sr.getLsbD n
    rw [hos.sr]
    exact onlySrBits_setSupervisor s true n hn

/-- A trap entry whose frame does not fit leaves nothing (60_exceptions R486, R492). -/
theorem enterTrap_of_not_fits (words : List Word) (vector : Word) (s : State) (hw : ¬ FrameFits s words.length) :
    enterTrap words vector s = none := by
  cases hp : pushAll words (s.setSupervisor true) with
  | error e => simp [enterTrap, hp]
  | ok t =>
    have := fits_of_pushAll words (s.setSupervisor true) t (by simp) hp
    exact absurd this hw

end Sys2Proof.Machine
end

