-- ==== Sys2Proof/Laws/Effects.lean ====
section
/-! SUPPORT. What fails, and everything that can change: memory accesses and stack accesses that fail, traps, the interrupt check, and
each handler when it completes. -/

namespace Sys2Proof.Machine

/-- The checks of a write pass exactly when the byte is writable, and fail with its address. -/
theorem checkWrite_cases (s : State) (x : Int) :
    (Writable s x 1 ∧ checkWrite s x = .ok ()) ∨ (¬ Writable s x 1 ∧ ∃ e, checkWrite s x = .error e ∧ e.address = x) := by
  by_cases h : Writable s x 1
  · left; exact ⟨h, by have := checkWrite_of_writable h 0 (by decide); simpa using this⟩
  · right; refine ⟨h, ?_⟩
    cases hc : checkWrite s x with
    | ok u =>
      exfalso; apply h; intro j hj; have : j = 0 := by omega
      subst this; simpa using checkWrite_ok hc
    | error e =>
      refine ⟨e, rfl, ?_⟩
      unfold checkWrite at hc
      split at hc
      · split at hc
        · cases hc; rfl
        · cases hc
      · cases hc; rfl

theorem memWrite8_fail {s : State} {x : Int} (v) (h : ¬ Writable s x 1) : ∃ e, memWrite8 s x v = .error e ∧ e.address = x := by
  rcases checkWrite_cases s x with ⟨h', -⟩ | ⟨-, e, he, ha⟩
  · exact absurd h' h
  · exact ⟨e, by simp only [memWrite8, he]; rfl, ha⟩

theorem memWrite16_fail0 {s : State} {x : Int} (v) (h : ¬ Writable s x 1) : ∃ e, memWrite16 s x v = .error e ∧ e.address = x := by
  rcases checkWrite_cases s x with ⟨h', -⟩ | ⟨-, e, he, ha⟩
  · exact absurd h' h
  · exact ⟨e, by simp only [memWrite16, he]; rfl, ha⟩

theorem memWrite16_fail1 {s : State} {x : Int} (v) (h0 : Writable s x 1) (h : ¬ Writable s (x+1) 1) :
    ∃ e, memWrite16 s x v = .error e ∧ e.address = x + 1 := by
  rcases checkWrite_cases s (x+1) with ⟨h', -⟩ | ⟨-, e, he, ha⟩
  · exact absurd h' h
  · rcases checkWrite_cases s x with ⟨-, h'⟩ | ⟨h', -⟩
    · exact ⟨e, by simp only [memWrite16, he, h']; rfl, ha⟩
    · exact absurd h0 h'

theorem writable2_split {s : State} {x : Int} : Writable s x 2 ↔ Writable s x 1 ∧ Writable s (x+1) 1 := by
  constructor
  · intro h; refine ⟨fun j hj => h j (by omega), fun j hj => ?_⟩
    have : j = 0 := by omega
    subst this; simpa using h 1 (by omega)
  · rintro ⟨h0, h1⟩ j hj
    have : j = 0 ∨ j = 1 := by omega
    rcases this with rfl | rfl
    · exact h0 0 (by omega)
    · simpa using h1 0 (by omega)

theorem memWrite16_fail {s : State} {x : Int} (v) (h : ¬ Writable s x 2) : ∃ e, memWrite16 s x v = .error e := by
  by_cases h0 : Writable s x 1
  · obtain ⟨e, he, -⟩ := memWrite16_fail1 v h0 (fun h1 => h (writable2_split.mpr ⟨h0, h1⟩)); exact ⟨e, he⟩
  · obtain ⟨e, he, -⟩ := memWrite16_fail0 v h0; exact ⟨e, he⟩

theorem memRead8_fail {s : State} {x : Int} (h : ¬ Readable s x 1) : ∃ e, memRead8 s x = .error e := by
  unfold memRead8; split
  · next hb => exact absurd (fun j hj => by have : j = 0 := by omega
                                            subst this; simpa using hb) h
  · exact ⟨_, rfl⟩

theorem memRead16_fail {s : State} {x : Int} (h : ¬ Readable s x 2) : ∃ e, memRead16 s x = .error e := by
  unfold memRead16; split
  · next hb =>
    split
    · next hb1 =>
      exact absurd (fun j hj => by have : j = 0 ∨ j = 1 := by omega
                                   rcases this with rfl | rfl
                                   · simpa using hb
                                   · simpa using hb1) h
    · exact ⟨_, rfl⟩
  · exact ⟨_, rfl⟩

theorem push16_fail {s : State} (v) (h : ¬ Writable s ((s.sp.toNat : Int) - 1) 2) : push16 s v = .error .stackAccess := by
  obtain ⟨e, he⟩ := memWrite16_fail v h; simp only [push16, he]; rfl

theorem push8_fail {s : State} (v) (h : ¬ Writable s (s.sp.toNat : Int) 1) : push8 s v = .error .stackAccess := by
  obtain ⟨e, he, -⟩ := memWrite8_fail v h; simp only [push8, he]; rfl

theorem pop16_fail {s : State} (h : ¬ Readable s ((s.sp.toNat : Int) + 1) 2) : pop16 s = .error .stackAccess := by
  obtain ⟨e, he⟩ := memRead16_fail h; simp only [pop16, he]; rfl

theorem pop8_fail {s : State} (h : ¬ Readable s ((s.sp.toNat : Int) + 1) 1) : pop8 s = .error .stackAccess := by
  obtain ⟨e, he⟩ := memRead8_fail h; simp only [pop8, he]; rfl

/-- A sequence completes only when its first part does. -/
theorem bind_ok {α β} {x : Except Exc α} {f : α → Except Exc β} {t : β} (h : (x >>= f) = .ok t) : ∃ a, x = .ok a ∧ f a = .ok t := by
  cases x with
  | ok a => exact ⟨a, rfl, h⟩
  | error e => cases h

/-- The parameters, the canonical form of memory and every read-only byte stay. -/
structure MemoryKept (s t : State) : Prop where
  cfg : t.cfg = s.cfg
  wf : Memory.wf s.cfg.memSize s.mem = true → Memory.wf t.cfg.memSize t.mem = true
  ro : ∀ n : Nat, Config.permAt s.cfg (n : Int) = .ro → t.mem.read n = s.mem.read n

theorem MemoryKept.of_eq {s t : State} (hc : t.cfg = s.cfg) (hm : t.mem = s.mem) :
    MemoryKept s t := ⟨hc, by rw [hc, hm]; exact id, fun n _ => by rw [hm]⟩

theorem MemoryKept.trans {s t u} (h : MemoryKept s t) (g : MemoryKept t u) : MemoryKept s u :=
  ⟨g.cfg.trans h.cfg, fun w => g.wf (h.wf w), fun n hn => (g.ro n (by rw [h.cfg]; exact hn)).trans (h.ro n hn)⟩

theorem MemoryKept.poke {s : State} {x : Int} (v : Byte) (h : Writable s x 1) : MemoryKept s (s.poke x v) := by
  have h0 := h 0 (by decide)
  simp only [Nat.cast_zero, add_zero] at h0
  rw [inBounds_iff] at h0
  have hlt : x.toNat < s.cfg.memSize := by have := h0.1; omega
  refine ⟨rfl, fun w => Memory.wf_write _ _ _ _ w hlt, fun n hn => ?_⟩
  rw [State.poke_mem]
  apply Memory.read_write_other
  rintro rfl
  rw [Int.toNat_of_nonneg h0.1.1] at hn; rw [hn] at h0; cases h0.2

theorem MemoryKept.poke2 {s : State} {x : Int} (v w : Byte) (h : Writable s x 2) : MemoryKept s ((s.poke x v).poke (x+1) w) := by
  obtain ⟨h0, h1⟩ := writable2_split.mp h
  exact (MemoryKept.poke v h0).trans (MemoryKept.poke w ((writable_congr rfl _ _).mpr h1))

theorem MemoryKept.then {s t u : State} (h : MemoryKept s t) (hc : u.cfg = t.cfg) (hm : u.mem = t.mem) :
    MemoryKept s u := h.trans (.of_eq hc hm)

theorem push16_mem {s t : State} {v} (h : push16 s v = .ok t) : MemoryKept s t := by
  obtain ⟨hw, rfl⟩ := push16_ok h
  have := MemoryKept.poke2 (hiByte v) (loByte v) hw
  rw [show (s.sp.toNat : Int) - 1 + 1 = s.sp.toNat by omega] at this
  exact this.then (by simp) (by simp)

theorem push8_ok {s t : State} {v} (h : push8 s v = .ok t) :
    Writable s (s.sp.toNat : Int) 1 ∧ t = (s.poke (s.sp.toNat : Int) v).setSp (wordOfInt ((s.sp.toNat : Int) - 1)) := by
  unfold push8 at h
  cases hw : memWrite8 s (s.sp.toNat : Int) v with
  | error e => rw [hw] at h; cases h
  | ok u => rw [hw] at h; obtain ⟨h1, rfl⟩ := memWrite8_ok hw; cases h; exact ⟨h1, rfl⟩

theorem push8_mem {s t : State} {v} (h : push8 s v = .ok t) : MemoryKept s t := by
  obtain ⟨hw, rfl⟩ := push8_ok h
  exact (MemoryKept.poke v hw).then (by simp) (by simp)

theorem pop16_ok {s : State} {p} (h : pop16 s = .ok p) :
    p = (s.wordAt ((s.sp.toNat : Int) + 1), s.setSp (wordOfInt ((s.sp.toNat : Int) + 2))) := by
  by_cases hr : Readable s ((s.sp.toNat : Int) + 1) 2
  · rw [pop16_of_readable hr] at h; cases h; rfl
  · rw [pop16_fail hr] at h; cases h

theorem pop8_ok {s : State} {p} (h : pop8 s = .ok p) :
    p = (s.byteAt ((s.sp.toNat : Int) + 1), s.setSp (wordOfInt ((s.sp.toNat : Int) + 1))) := by
  by_cases hr : Readable s ((s.sp.toNat : Int) + 1) 1
  · rw [pop8_of_readable hr] at h; cases h; rfl
  · rw [pop8_fail hr] at h; cases h

theorem pushAll_mem {ws} {s t : State} (h : pushAll ws s = .ok t) : MemoryKept s t := by
  induction ws generalizing s with
  | nil => cases h; exact .of_eq rfl rfl
  | cons w ws ih =>
    obtain ⟨u, h1, h2⟩ := bind_ok h
    exact (push16_mem h1).trans (ih h2)

theorem enterTrap_mem {ws v} {s t : State} (h : enterTrap ws v s = some t) : MemoryKept s t := by
  unfold enterTrap at h
  cases hp : pushAll ws (s.setSupervisor true) with
  | error e => rw [hp] at h; cases h
  | ok u => rw [hp] at h; cases h; exact (MemoryKept.of_eq (s := s) (t := s.setSupervisor true) rfl rfl).trans ((pushAll_mem hp).then rfl rfl)

/-- Everything a trap, or the step into FAULT, can change: memory on the supervisor stack, SSP, IP and the bits 0, 1, 4 and 15 of SR. -/
structure TrapEffect (s t : State) : Prop where
  mem : MemoryKept s t
  dev : SameDevices s t
  gp : t.a = s.a ∧ t.b = s.b ∧ t.c = s.c ∧ t.d = s.d ∧ t.usp = s.usp
  sr : ∀ n, n ∉ [0,1,4,15] → t.sr.getLsbD n = s.sr.getLsbD n
  sup : s.supervisor = true → t.supervisor = true

theorem TrapEffect.fault (e : Exc) (s : State) : TrapEffect s (goToFault e s) :=
  ⟨.of_eq rfl rfl, ⟨rfl,rfl,rfl,rfl,rfl,rfl,rfl,rfl,rfl⟩, ⟨rfl,rfl,rfl,rfl,rfl⟩,
    fun n hn => setBit_other _ _ _ _ (by simp at hn; exact hn.2.1), fun h => by show (s.setFaulted true).supervisor = true; simpa using h⟩

theorem TrapEffect.enter {ws v} {s t : State} (h : enterTrap ws v s = some t) : TrapEffect s t := by
  have hm := enterTrap_mem h
  obtain ⟨u, hu, rfl⟩ := enterTrap_some h
  refine ⟨hm, hu.devices, ⟨hu.a, hu.b, hu.c, hu.d, hu.usp⟩, fun n hn => ?_, fun _ => ?_⟩
  · show u.sr.getLsbD n = _; rw [hu.sr]; exact setBit_other _ _ _ _ (by simp at hn; exact hn.2.2.2)
  · exact hu.supervisor.trans (by simp)

/-- Where a trap entry leaves IP, SR and the error report. -/
theorem enterTrap_fields {ws v} {s t : State} (h : enterTrap ws v s = some t) :
    t.ip = v ∧ t.supervisor = true ∧ (∀ n, n ≠ 15 → t.sr.getLsbD n = s.sr.getLsbD n) ∧ t.stepError = s.stepError := by
  obtain ⟨u, hu, rfl⟩ := enterTrap_some h
  exact ⟨rfl, hu.supervisor.trans (by simp), fun n hn => by show u.sr.getLsbD n = _; rw [hu.sr]; exact setBit_other _ _ _ _ hn,
    hu.stepError⟩

/-- An exception either goes to FAULT or enters its vector, from user mode. -/
theorem takeException_cases (e : Exc) (s : State) :
    takeException e s = goToFault e s ∨ (s.supervisor = false ∧ ∃ t, enterTrap (exceptionWords e s) excVector s = some t ∧
      takeException e s = t.clearError) := by
  cases hs : s.supervisor with
  | true => exact .inl (takeException_supervisor e s hs)
  | false => rcases takeException_user e s hs with ⟨t, h1, h2⟩ | ⟨-, h⟩
             · exact .inr ⟨rfl, t, h1, h2⟩
             · exact .inl h

/-- SVC either goes to FAULT or enters its vector. -/
theorem svcEntry_cases (s : State) :
    svcEntry s = goToFault .stackAccess s ∨ (∃ t, enterTrap [s.sr, s.usp, s.ip + 1] syscallVector s = some t ∧
      svcEntry s = t.clearError) := by
  unfold svcEntry
  cases enterTrap [s.sr, s.usp, s.ip + 1] syscallVector s with
  | none => exact .inl rfl
  | some t => exact .inr ⟨t, rfl, rfl⟩

/-- The interrupt check does nothing, goes to FAULT, or enters its vector. -/
theorem recogniseInterrupt_cases (s : State) :
    recogniseInterrupt s = s ∨ (s.faulted = false ∧ s.irqIn = true ∧ s.irqEnabled = true ∧
      (recogniseInterrupt s = goToFault .stackAccess s ∨ ∃ t ws, enterTrap ws irqVector (s.setHalted false) = some t ∧
        recogniseInterrupt s = t.setIrqEnabled false)) := by
  unfold recogniseInterrupt
  cases hf : s.faulted with
  | true => exact .inl rfl
  | false =>
    cases hi : s.irqIn <;> cases he : s.irqEnabled <;> simp only [Bool.false_eq_true, if_false, Bool.and_self, Bool.and_false,
      Bool.false_and, true_or, if_true]
    right; refine ⟨trivial, trivial, trivial, ?_⟩
    unfold interruptEntry
    dsimp only
    cases h : enterTrap [(s.setHalted false).sr, (s.setHalted false).sp, (s.setHalted false).ip] irqVector (s.setHalted false) with
    | none => exact .inl rfl
    | some t => exact .inr ⟨t, _, h, rfl⟩

theorem TrapEffect.exc (e : Exc) (s : State) : TrapEffect s (takeException e s) := by
  rcases takeException_cases e s with h | ⟨-, t, h1, h2⟩
  · rw [h]; exact .fault e s
  · rw [h2]; exact ⟨(TrapEffect.enter h1).mem.then rfl rfl, (TrapEffect.enter h1).dev, (TrapEffect.enter h1).gp, (TrapEffect.enter h1).sr,
    (TrapEffect.enter h1).sup⟩

theorem TrapEffect.svc (s : State) : TrapEffect s (svcEntry s) := by
  rcases svcEntry_cases s with h | ⟨t, h1, h2⟩
  · rw [h]; exact .fault _ s
  · rw [h2]; exact ⟨(TrapEffect.enter h1).mem.then rfl rfl, (TrapEffect.enter h1).dev, (TrapEffect.enter h1).gp, (TrapEffect.enter h1).sr,
    (TrapEffect.enter h1).sup⟩

theorem TrapEffect.irq (s : State) : TrapEffect s (recogniseInterrupt s) := by
  rcases recogniseInterrupt_cases s with h | ⟨-, -, -, h | ⟨t, ws, h1, h2⟩⟩
  · rw [h]; exact ⟨.of_eq rfl rfl, ⟨rfl,rfl,rfl,rfl,rfl,rfl,rfl,rfl,rfl⟩, ⟨rfl,rfl,rfl,rfl,rfl⟩, fun _ _ => rfl, id⟩
  · rw [h]; exact .fault _ s
  · rw [h2]
    have g := TrapEffect.enter h1
    refine ⟨((MemoryKept.of_eq (s := s) (t := s.setHalted false) rfl rfl).trans g.mem).then rfl rfl, g.dev, g.gp, fun n hn => ?_,
      fun hs => ?_⟩
    · simp at hn
      rw [State.setIrqEnabled_sr, setBit_other _ _ _ _ hn.2.2.1, g.sr n (by simp [hn])]
      exact setBit_other _ _ _ _ hn.1
    · simpa using g.sup (by simpa using hs)

/-- Everything a handler that completes can change: writable memory, the general registers, the active stack pointer, IP, HALT,
  IRQMASK (in supervisor
mode), the flags (an ALU handler), and the device registers through `ioWrite` (in supervisor mode). -/
structure HandlerEffect (alu : Bool) (s t : State) : Prop where
  mem : MemoryKept s t
  dev : SameDevices s t ∨ (s.supervisor = true ∧ ∃ x u, ioWrite s x s.a = some u ∧ SameDevices u t)
  sr : ∀ n, n ≠ 0 → (n = 4 → s.supervisor = false) → (alu = true → n ∉ [2,3]) → t.sr.getLsbD n = s.sr.getLsbD n
  sp : OtherSpSame s t

theorem sup_of_bit {s t : State} (h : t.sr.getLsbD 15 = s.sr.getLsbD 15) : t.supervisor = s.supervisor := h

theorem otherSp_of {s t : State} (hu : t.usp = s.usp) (hs : t.ssp = s.ssp) : OtherSpSame s t := by unfold OtherSpSame; split <;> assumption

theorem otherSp_setSp {s t : State} {v} (h : ∃ u : State, u.usp = s.usp ∧ u.ssp = s.ssp ∧ u.supervisor = s.supervisor ∧
  t.usp = (u.setSp v).usp ∧ t.ssp = (u.setSp v).ssp) : OtherSpSame s t := by
  obtain ⟨u, h1, h2, h3, h4, h5⟩ := h
  unfold OtherSpSame; split <;> rename_i hs
  · rw [h4, State.setSp_usp]; simp [h3, hs, h1]
  · rw [h5, State.setSp_ssp]; simp [h3, hs, h2]

theorem ioWrite_core {s u : State} {x v} (h : ioWrite s x v = some u) :
    u.cfg = s.cfg ∧ u.mem = s.mem ∧ u.sr = s.sr ∧ u.usp = s.usp ∧ u.ssp = s.ssp := by
  unfold ioWrite at h
  split at h; · cases h; exact ⟨rfl,rfl,rfl,rfl,rfl⟩
  split at h; · cases h
  split at h; · cases h; exact ⟨rfl,rfl,rfl,rfl,rfl⟩
  split at h; · cases h; exact ⟨rfl,rfl,rfl,rfl,rfl⟩
  split at h; · cases h
  split at h
  · split at h
    · cases h
    · cases h; exact ⟨rfl,rfl,rfl,rfl,rfl⟩
  · cases h

theorem SameDevices.refl (s : State) : SameDevices s s := ⟨rfl,rfl,rfl,rfl,rfl,rfl,rfl,rfl,rfl⟩

theorem sr_after_flags (s : State) (x z : Bool) (k n : Nat) (h : n ∉ [2, 3]) :
    ((s.setFlags x z).advance k).sr.getLsbD n = s.sr.getLsbD n := by
  rw [State.advance_sr, sr_getLsbD_setFlags _ _ _ _ h]

/-- Everything each handler can change when it completes. -/
theorem handler_effect {alu f} (hb : Handler alu f) (s t : State) (h : f s = .ok t) : HandlerEffect alu s t := by
  cases hb with
  | mv16 k d src =>
    obtain ⟨_, hd, h⟩ := bind_ok h; obtain ⟨v, hv, h⟩ := bind_ok h; cases h
    have hd : isReg16 d = true := by unfold requireReg16 at hd; split at hd <;> first | assumption | cases hd
    refine ⟨.of_eq (by simp) (by simp), .inl (by simp [SameDevices]), fun n _ _ _ => by simp, ?_⟩
    have := otherSp_setReg16 s d v hd
    unfold OtherSpSame at this ⊢; simpa using this
  | mv8 k d src =>
    obtain ⟨_, hd, h⟩ := bind_ok h; obtain ⟨v, hv, h⟩ := bind_ok h; cases h
    exact ⟨.of_eq (by simp) (by simp), .inl (by simp [SameDevices]), fun n _ _ _ => by simp, otherSp_of (by simp) (by simp)⟩
  | st16 k o src =>
    obtain ⟨v, hv, h⟩ := bind_ok h; obtain ⟨u, hu, h⟩ := bind_ok h; cases h
    obtain ⟨x, hx, hu⟩ := bind_ok hu
    cases hw : memWrite16 s x v with
    | error e => rw [hw] at hu; cases hu
    | ok w =>
      rw [hw] at hu; cases hu
      obtain ⟨h1, rfl⟩ := memWrite16_ok hw
      exact ⟨(MemoryKept.poke2 (hiByte v) (loByte v) h1).then (by simp) (by simp), .inl (by simp [SameDevices]), fun n _ _ _ => by simp,
        otherSp_of (by simp) (by simp)⟩
  | st8 k o src =>
    obtain ⟨v, hv, h⟩ := bind_ok h; obtain ⟨u, hu, h⟩ := bind_ok h; cases h
    obtain ⟨x, hx, hu⟩ := bind_ok hu
    cases hw : memWrite8 s x v with
    | error e => rw [hw] at hu; cases hu
    | ok w =>
      rw [hw] at hu; cases hu
      obtain ⟨h1, rfl⟩ := memWrite8_ok hw
      exact ⟨(MemoryKept.poke v h1).then (by simp) (by simp), .inl (by simp [SameDevices]), fun n _ _ _ => by simp,
        otherSp_of (by simp) (by simp)⟩
  | alu16 op k d src =>
    obtain ⟨_, hd, h⟩ := bind_ok h; obtain ⟨v, hv, h⟩ := bind_ok h; cases h
    have hd : isReg16 d = true := by unfold requireReg16 at hd; split at hd <;> first | assumption | cases hd
    refine ⟨.of_eq (by simp) (by simp), .inl (by simp [SameDevices]), fun n _ _ ha => (sr_after_flags _ _ _ _ _ (ha rfl)).trans (by simp),
      ?_⟩
    have := otherSp_setReg16 s d (op (s.reg16 d) v).result hd
    unfold OtherSpSame at this ⊢; simpa using this
  | alu8 op k d src =>
    obtain ⟨_, hd, h⟩ := bind_ok h; obtain ⟨v, hv, h⟩ := bind_ok h; cases h
    exact ⟨.of_eq (by simp) (by simp), .inl (by simp [SameDevices]), fun n _ _ ha => (sr_after_flags _ _ _ _ _ (ha rfl)).trans (by simp),
      otherSp_of (by simp) (by simp)⟩
  | cmp16 k d src =>
    obtain ⟨_, hd, h⟩ := bind_ok h; obtain ⟨v, hv, h⟩ := bind_ok h; cases h
    exact ⟨.of_eq (by simp) (by simp), .inl (by simp [SameDevices]), fun n _ _ ha => sr_after_flags _ _ _ _ _ (ha rfl),
      otherSp_of (by simp) (by simp)⟩
  | cmp8 k d src =>
    obtain ⟨_, hd, h⟩ := bind_ok h; obtain ⟨v, hv, h⟩ := bind_ok h; cases h
    exact ⟨.of_eq (by simp) (by simp), .inl (by simp [SameDevices]), fun n _ _ ha => sr_after_flags _ _ _ _ _ (ha rfl),
      otherSp_of (by simp) (by simp)⟩
  | un16 op d =>
    obtain ⟨_, hd, h⟩ := bind_ok h; cases h
    have hd : isReg16 d = true := by unfold requireReg16 at hd; split at hd <;> first | assumption | cases hd
    refine ⟨.of_eq (by simp) (by simp), .inl (by simp [SameDevices]), fun n _ _ ha => (sr_after_flags _ _ _ _ _ (ha rfl)).trans (by simp),
      ?_⟩
    have := otherSp_setReg16 s d (op (s.reg16 d)).result hd
    unfold OtherSpSame at this ⊢; simpa using this
  | un8 op d =>
    obtain ⟨_, hd, h⟩ := bind_ok h; cases h
    exact ⟨.of_eq (by simp) (by simp), .inl (by simp [SameDevices]), fun n _ _ ha => (sr_after_flags _ _ _ _ _ (ha rfl)).trans (by simp),
      otherSp_of (by simp) (by simp)⟩
  | mul16 k src =>
    obtain ⟨v, hv, h⟩ := bind_ok h; cases h
    exact ⟨.of_eq rfl rfl, .inl (SameDevices.refl _), fun n _ _ ha => sr_after_flags _ _ _ _ _ (ha rfl), otherSp_of rfl rfl⟩
  | mul8 k src =>
    obtain ⟨v, hv, h⟩ := bind_ok h; cases h
    exact ⟨.of_eq rfl rfl, .inl (SameDevices.refl _), fun n _ _ ha => sr_after_flags _ _ _ _ _ (ha rfl), otherSp_of rfl rfl⟩
  | div16 k src =>
    obtain ⟨v, hv, h⟩ := bind_ok h; obtain ⟨q, hq, h⟩ := bind_ok h; cases h
    exact ⟨.of_eq rfl rfl, .inl (SameDevices.refl _), fun n _ _ ha => sr_after_flags _ _ _ _ _ (ha rfl), otherSp_of rfl rfl⟩
  | div8 k src =>
    obtain ⟨v, hv, h⟩ := bind_ok h; obtain ⟨q, hq, h⟩ := bind_ok h; cases h
    exact ⟨.of_eq rfl rfl, .inl (SameDevices.refl _), fun n _ _ ha => sr_after_flags _ _ _ _ _ (ha rfl), otherSp_of rfl rfl⟩
  | jump cond tg =>
    obtain ⟨v, hv, h⟩ := bind_ok h; cases h
    cases cond.holds s <;> exact ⟨.of_eq rfl rfl, .inl (SameDevices.refl _), fun n _ _ _ => rfl, otherSp_of rfl rfl⟩
  | call tg =>
    obtain ⟨v, hv, h⟩ := bind_ok h; obtain ⟨u, hu, h⟩ := bind_ok h; cases h
    have hm := push16_mem hu
    obtain ⟨hw, rfl⟩ := push16_ok hu
    refine ⟨hm.then rfl rfl, .inl ?_, fun n _ _ _ => ?_, otherSp_setSp ⟨_, ?_, ?_, ?_, rfl, rfl⟩⟩
    · show SameDevices s (State.setSp _ _); simp [SameDevices]
    · show (State.setSp _ _).sr.getLsbD n = _; simp
    all_goals simp
  | ret =>
    obtain ⟨⟨v, u⟩, hv, h⟩ := bind_ok h
    cases (pop16_ok hv); cases h
    refine ⟨.of_eq ?_ ?_, .inl ?_, fun n _ _ _ => ?_, otherSp_setSp ⟨s, rfl, rfl, rfl, rfl, rfl⟩⟩
    · show (State.setSp _ _).cfg = _; simp
    · show (State.setSp _ _).mem = _; simp
    · show SameDevices s (State.setSp _ _); simp [SameDevices]
    · show (State.setSp _ _).sr.getLsbD n = _; simp
  | psh16 k src =>
    obtain ⟨v, hv, h⟩ := bind_ok h; obtain ⟨u, hu, h⟩ := bind_ok h; cases h
    have hm := push16_mem hu
    obtain ⟨hw, rfl⟩ := push16_ok hu
    refine ⟨hm.then rfl rfl, .inl ?_, fun n _ _ _ => ?_, otherSp_setSp ⟨_, ?_, ?_, ?_, rfl, rfl⟩⟩
    · simp [SameDevices]
    · simp
    all_goals simp
  | psh8 k src =>
    obtain ⟨v, hv, h⟩ := bind_ok h; obtain ⟨u, hu, h⟩ := bind_ok h; cases h
    have hm := push8_mem hu
    obtain ⟨hw, rfl⟩ := push8_ok hu
    refine ⟨hm.then rfl rfl, .inl ?_, fun n _ _ _ => ?_, otherSp_setSp ⟨_, ?_, ?_, ?_, rfl, rfl⟩⟩
    · simp [SameDevices]
    · simp
    all_goals simp
  | pop16 r =>
    obtain ⟨_, hd, h⟩ := bind_ok h
    have hd : isReg16 r = true := by unfold requireReg16 at hd; split at hd <;> first | assumption | cases hd
    obtain ⟨⟨v, u⟩, hv, h⟩ := bind_ok h
    cases (pop16_ok hv); cases h
    refine ⟨.of_eq (by simp) (by simp), .inl (by simp [SameDevices]), fun n _ _ _ => by simp, ?_⟩
    have := otherSp_setReg16 (s.setSp (wordOfInt ((s.sp.toNat : Int) + 2))) r (s.wordAt ((s.sp.toNat : Int) + 1)) hd
    unfold OtherSpSame at this ⊢
    cases hss : s.supervisor <;> simp [hss] at this ⊢ <;> exact this
  | pop8 r =>
    obtain ⟨_, hd, h⟩ := bind_ok h
    obtain ⟨⟨v, u⟩, hv, h⟩ := bind_ok h
    cases (pop8_ok hv); cases h
    refine ⟨.of_eq (by simp) (by simp), .inl (by simp [SameDevices]), fun n _ _ _ => by simp, ?_⟩
    unfold OtherSpSame
    cases hss : s.supervisor <;> simp [hss]
  | halt => cases h; exact ⟨.of_eq rfl rfl, .inl (SameDevices.refl _), fun n h0 _ _ => setBit_other _ _ _ _ h0, otherSp_of rfl rfl⟩
  | irq v =>
    obtain ⟨_, hd, h⟩ := bind_ok h; cases h
    have hd : s.supervisor = true := by unfold requireSupervisor at hd; split at hd <;> first | assumption | cases hd
    exact ⟨.of_eq rfl rfl, .inl (SameDevices.refl _), fun n h0 h4 _ => setBit_other _ _ _ _ (fun e => by rw [h4 e] at hd; cases hd),
      otherSp_of rfl rfl⟩
  | inp k src =>
    obtain ⟨_, hd, h⟩ := bind_ok h; obtain ⟨v, hv, h⟩ := bind_ok h; obtain ⟨q, hq, h⟩ := bind_ok h; cases h
    exact ⟨.of_eq rfl rfl, .inl (SameDevices.refl _), fun n _ _ ha => rfl, otherSp_of rfl rfl⟩
  | out k src =>
    obtain ⟨_, hd, h⟩ := bind_ok h; obtain ⟨v, hv, h⟩ := bind_ok h; obtain ⟨q, hq, h⟩ := bind_ok h; cases h
    have hd : s.supervisor = true := by unfold requireSupervisor at hd; split at hd <;> first | assumption | cases hd
    cases hw : ioWrite s v s.a with
    | none => rw [hw] at hq; cases hq
    | some u =>
      rw [hw] at hq; cases hq
      obtain ⟨c1, c2, c3, c4, c5⟩ := ioWrite_core hw
      exact ⟨.of_eq c1 c2, .inr ⟨hd, v, q, hw, SameDevices.refl _⟩, fun n _ _ ha => by show q.sr.getLsbD n = _; rw [c3], otherSp_of c4 c5⟩

end Sys2Proof.Machine
end

