-- ==== Sys2Proof/Laws/PerInstr.lean ====
section
/-! SUPPORT. The family `EncodingLaw`: what the encoding tables say of each instruction as syntax, one lemma per constructor. -/

namespace Sys2Proof.Laws.EncodingLaw

/-- The type of an operand (30_encoding R122). -/
def operandType : Operand → OperandType
  | .r16 _ => .r16
  | .r8 _ => .r8
  | .byte _ => .byte
  | .word _ => .word
  | .addr _ => .addr
  | .regAddr _ => .regAddr

/-- The row of the opcode map that the instruction's opcode selects has that opcode and the types of the instruction's operands, in order;
and its encoding has the size of its format, at most five bytes (30_encoding R120, R121, R131). -/
def Statement (i : Instr) : Prop :=
  (findRow i.opcode registry).map (fun row => (row.opcode, row.shape.types)) = some (i.opcode, i.operands.map operandType) ∧
    (encode i).length = i.size ∧ Nat.ble i.size 5 = true

theorem hlt : Statement .hlt := ⟨rfl, rfl, rfl⟩
theorem movR16R16 (d : RegIdx) (r : RegIdx) : Statement (.movR16R16 d r) := ⟨rfl, rfl, rfl⟩
theorem movR16Ad (d : RegIdx) (a : Word) : Statement (.movR16Ad d a) := ⟨rfl, rfl, rfl⟩
theorem movR16Ra (d : RegIdx) (m : RegAddr) : Statement (.movR16Ra d m) := ⟨rfl, rfl, rfl⟩
theorem movAdR16 (a : Word) (r : RegIdx) : Statement (.movAdR16 a r) := ⟨rfl, rfl, rfl⟩
theorem movRaR16 (m : RegAddr) (r : RegIdx) : Statement (.movRaR16 m r) := ⟨rfl, rfl, rfl⟩
theorem movR16W (d : RegIdx) (v : Word) : Statement (.movR16W d v) := ⟨rfl, rfl, rfl⟩
theorem movAdW (a : Word) (v : Word) : Statement (.movAdW a v) := ⟨rfl, rfl, rfl⟩
theorem movRaW (m : RegAddr) (v : Word) : Statement (.movRaW m v) := ⟨rfl, rfl, rfl⟩
theorem movbR8R8 (d : RegIdx) (r : RegIdx) : Statement (.movbR8R8 d r) := ⟨rfl, rfl, rfl⟩
theorem movbR8Ad (d : RegIdx) (a : Word) : Statement (.movbR8Ad d a) := ⟨rfl, rfl, rfl⟩
theorem movbR8Ra (d : RegIdx) (m : RegAddr) : Statement (.movbR8Ra d m) := ⟨rfl, rfl, rfl⟩
theorem movbAdR8 (a : Word) (r : RegIdx) : Statement (.movbAdR8 a r) := ⟨rfl, rfl, rfl⟩
theorem movbRaR8 (m : RegAddr) (r : RegIdx) : Statement (.movbRaR8 m r) := ⟨rfl, rfl, rfl⟩
theorem movbR8B (d : RegIdx) (v : Byte) : Statement (.movbR8B d v) := ⟨rfl, rfl, rfl⟩
theorem movbAdB (a : Word) (v : Byte) : Statement (.movbAdB a v) := ⟨rfl, rfl, rfl⟩
theorem movbRaB (m : RegAddr) (v : Byte) : Statement (.movbRaB m v) := ⟨rfl, rfl, rfl⟩
theorem addR16R16 (d : RegIdx) (r : RegIdx) : Statement (.addR16R16 d r) := ⟨rfl, rfl, rfl⟩
theorem addR16Ra (d : RegIdx) (m : RegAddr) : Statement (.addR16Ra d m) := ⟨rfl, rfl, rfl⟩
theorem addR16Ad (d : RegIdx) (a : Word) : Statement (.addR16Ad d a) := ⟨rfl, rfl, rfl⟩
theorem addR16W (d : RegIdx) (v : Word) : Statement (.addR16W d v) := ⟨rfl, rfl, rfl⟩
theorem addbR8R8 (d : RegIdx) (r : RegIdx) : Statement (.addbR8R8 d r) := ⟨rfl, rfl, rfl⟩
theorem addbR8Ra (d : RegIdx) (m : RegAddr) : Statement (.addbR8Ra d m) := ⟨rfl, rfl, rfl⟩
theorem addbR8Ad (d : RegIdx) (a : Word) : Statement (.addbR8Ad d a) := ⟨rfl, rfl, rfl⟩
theorem addbR8B (d : RegIdx) (v : Byte) : Statement (.addbR8B d v) := ⟨rfl, rfl, rfl⟩
theorem subR16R16 (d : RegIdx) (r : RegIdx) : Statement (.subR16R16 d r) := ⟨rfl, rfl, rfl⟩
theorem subR16Ra (d : RegIdx) (m : RegAddr) : Statement (.subR16Ra d m) := ⟨rfl, rfl, rfl⟩
theorem subR16Ad (d : RegIdx) (a : Word) : Statement (.subR16Ad d a) := ⟨rfl, rfl, rfl⟩
theorem subR16W (d : RegIdx) (v : Word) : Statement (.subR16W d v) := ⟨rfl, rfl, rfl⟩
theorem subbR8R8 (d : RegIdx) (r : RegIdx) : Statement (.subbR8R8 d r) := ⟨rfl, rfl, rfl⟩
theorem subbR8Ra (d : RegIdx) (m : RegAddr) : Statement (.subbR8Ra d m) := ⟨rfl, rfl, rfl⟩
theorem subbR8Ad (d : RegIdx) (a : Word) : Statement (.subbR8Ad d a) := ⟨rfl, rfl, rfl⟩
theorem subbR8B (d : RegIdx) (v : Byte) : Statement (.subbR8B d v) := ⟨rfl, rfl, rfl⟩
theorem incR16 (r : RegIdx) : Statement (.incR16 r) := ⟨rfl, rfl, rfl⟩
theorem incbR8 (r : RegIdx) : Statement (.incbR8 r) := ⟨rfl, rfl, rfl⟩
theorem decR16 (r : RegIdx) : Statement (.decR16 r) := ⟨rfl, rfl, rfl⟩
theorem decbR8 (r : RegIdx) : Statement (.decbR8 r) := ⟨rfl, rfl, rfl⟩
theorem cmpR16R16 (d : RegIdx) (r : RegIdx) : Statement (.cmpR16R16 d r) := ⟨rfl, rfl, rfl⟩
theorem cmpR16Ra (d : RegIdx) (m : RegAddr) : Statement (.cmpR16Ra d m) := ⟨rfl, rfl, rfl⟩
theorem cmpR16Ad (d : RegIdx) (a : Word) : Statement (.cmpR16Ad d a) := ⟨rfl, rfl, rfl⟩
theorem cmpR16W (d : RegIdx) (v : Word) : Statement (.cmpR16W d v) := ⟨rfl, rfl, rfl⟩
theorem cmpbR8R8 (d : RegIdx) (r : RegIdx) : Statement (.cmpbR8R8 d r) := ⟨rfl, rfl, rfl⟩
theorem cmpbR8Ra (d : RegIdx) (m : RegAddr) : Statement (.cmpbR8Ra d m) := ⟨rfl, rfl, rfl⟩
theorem cmpbR8Ad (d : RegIdx) (a : Word) : Statement (.cmpbR8Ad d a) := ⟨rfl, rfl, rfl⟩
theorem cmpbR8B (d : RegIdx) (v : Byte) : Statement (.cmpbR8B d v) := ⟨rfl, rfl, rfl⟩
theorem jmpRa (m : RegAddr) : Statement (.jmpRa m) := ⟨rfl, rfl, rfl⟩
theorem jmpW (v : Word) : Statement (.jmpW v) := ⟨rfl, rfl, rfl⟩
theorem jcRa (m : RegAddr) : Statement (.jcRa m) := ⟨rfl, rfl, rfl⟩
theorem jcW (v : Word) : Statement (.jcW v) := ⟨rfl, rfl, rfl⟩
theorem jncRa (m : RegAddr) : Statement (.jncRa m) := ⟨rfl, rfl, rfl⟩
theorem jncW (v : Word) : Statement (.jncW v) := ⟨rfl, rfl, rfl⟩
theorem jzRa (m : RegAddr) : Statement (.jzRa m) := ⟨rfl, rfl, rfl⟩
theorem jzW (v : Word) : Statement (.jzW v) := ⟨rfl, rfl, rfl⟩
theorem jnzRa (m : RegAddr) : Statement (.jnzRa m) := ⟨rfl, rfl, rfl⟩
theorem jnzW (v : Word) : Statement (.jnzW v) := ⟨rfl, rfl, rfl⟩
theorem jaRa (m : RegAddr) : Statement (.jaRa m) := ⟨rfl, rfl, rfl⟩
theorem jaW (v : Word) : Statement (.jaW v) := ⟨rfl, rfl, rfl⟩
theorem jnaRa (m : RegAddr) : Statement (.jnaRa m) := ⟨rfl, rfl, rfl⟩
theorem jnaW (v : Word) : Statement (.jnaW v) := ⟨rfl, rfl, rfl⟩
theorem pushR16 (r : RegIdx) : Statement (.pushR16 r) := ⟨rfl, rfl, rfl⟩
theorem pushRa (m : RegAddr) : Statement (.pushRa m) := ⟨rfl, rfl, rfl⟩
theorem pushAd (a : Word) : Statement (.pushAd a) := ⟨rfl, rfl, rfl⟩
theorem pushW (v : Word) : Statement (.pushW v) := ⟨rfl, rfl, rfl⟩
theorem pushbR8 (r : RegIdx) : Statement (.pushbR8 r) := ⟨rfl, rfl, rfl⟩
theorem pushbRa (m : RegAddr) : Statement (.pushbRa m) := ⟨rfl, rfl, rfl⟩
theorem pushbAd (a : Word) : Statement (.pushbAd a) := ⟨rfl, rfl, rfl⟩
theorem pushbB (v : Byte) : Statement (.pushbB v) := ⟨rfl, rfl, rfl⟩
theorem popR16 (r : RegIdx) : Statement (.popR16 r) := ⟨rfl, rfl, rfl⟩
theorem popbR8 (r : RegIdx) : Statement (.popbR8 r) := ⟨rfl, rfl, rfl⟩
theorem callRa (m : RegAddr) : Statement (.callRa m) := ⟨rfl, rfl, rfl⟩
theorem callW (v : Word) : Statement (.callW v) := ⟨rfl, rfl, rfl⟩
theorem ret : Statement .ret := ⟨rfl, rfl, rfl⟩
theorem mulR16 (r : RegIdx) : Statement (.mulR16 r) := ⟨rfl, rfl, rfl⟩
theorem mulRa (m : RegAddr) : Statement (.mulRa m) := ⟨rfl, rfl, rfl⟩
theorem mulAd (a : Word) : Statement (.mulAd a) := ⟨rfl, rfl, rfl⟩
theorem mulW (v : Word) : Statement (.mulW v) := ⟨rfl, rfl, rfl⟩
theorem mulbR8 (r : RegIdx) : Statement (.mulbR8 r) := ⟨rfl, rfl, rfl⟩
theorem mulbRa (m : RegAddr) : Statement (.mulbRa m) := ⟨rfl, rfl, rfl⟩
theorem mulbAd (a : Word) : Statement (.mulbAd a) := ⟨rfl, rfl, rfl⟩
theorem mulbB (v : Byte) : Statement (.mulbB v) := ⟨rfl, rfl, rfl⟩
theorem divR16 (r : RegIdx) : Statement (.divR16 r) := ⟨rfl, rfl, rfl⟩
theorem divRa (m : RegAddr) : Statement (.divRa m) := ⟨rfl, rfl, rfl⟩
theorem divAd (a : Word) : Statement (.divAd a) := ⟨rfl, rfl, rfl⟩
theorem divW (v : Word) : Statement (.divW v) := ⟨rfl, rfl, rfl⟩
theorem divbR8 (r : RegIdx) : Statement (.divbR8 r) := ⟨rfl, rfl, rfl⟩
theorem divbRa (m : RegAddr) : Statement (.divbRa m) := ⟨rfl, rfl, rfl⟩
theorem divbAd (a : Word) : Statement (.divbAd a) := ⟨rfl, rfl, rfl⟩
theorem divbB (v : Byte) : Statement (.divbB v) := ⟨rfl, rfl, rfl⟩
theorem andR16R16 (d : RegIdx) (r : RegIdx) : Statement (.andR16R16 d r) := ⟨rfl, rfl, rfl⟩
theorem andR16Ra (d : RegIdx) (m : RegAddr) : Statement (.andR16Ra d m) := ⟨rfl, rfl, rfl⟩
theorem andR16Ad (d : RegIdx) (a : Word) : Statement (.andR16Ad d a) := ⟨rfl, rfl, rfl⟩
theorem andR16W (d : RegIdx) (v : Word) : Statement (.andR16W d v) := ⟨rfl, rfl, rfl⟩
theorem andbR8R8 (d : RegIdx) (r : RegIdx) : Statement (.andbR8R8 d r) := ⟨rfl, rfl, rfl⟩
theorem andbR8Ra (d : RegIdx) (m : RegAddr) : Statement (.andbR8Ra d m) := ⟨rfl, rfl, rfl⟩
theorem andbR8Ad (d : RegIdx) (a : Word) : Statement (.andbR8Ad d a) := ⟨rfl, rfl, rfl⟩
theorem andbR8B (d : RegIdx) (v : Byte) : Statement (.andbR8B d v) := ⟨rfl, rfl, rfl⟩
theorem orR16R16 (d : RegIdx) (r : RegIdx) : Statement (.orR16R16 d r) := ⟨rfl, rfl, rfl⟩
theorem orR16Ra (d : RegIdx) (m : RegAddr) : Statement (.orR16Ra d m) := ⟨rfl, rfl, rfl⟩
theorem orR16Ad (d : RegIdx) (a : Word) : Statement (.orR16Ad d a) := ⟨rfl, rfl, rfl⟩
theorem orR16W (d : RegIdx) (v : Word) : Statement (.orR16W d v) := ⟨rfl, rfl, rfl⟩
theorem orbR8R8 (d : RegIdx) (r : RegIdx) : Statement (.orbR8R8 d r) := ⟨rfl, rfl, rfl⟩
theorem orbR8Ra (d : RegIdx) (m : RegAddr) : Statement (.orbR8Ra d m) := ⟨rfl, rfl, rfl⟩
theorem orbR8Ad (d : RegIdx) (a : Word) : Statement (.orbR8Ad d a) := ⟨rfl, rfl, rfl⟩
theorem orbR8B (d : RegIdx) (v : Byte) : Statement (.orbR8B d v) := ⟨rfl, rfl, rfl⟩
theorem xorR16R16 (d : RegIdx) (r : RegIdx) : Statement (.xorR16R16 d r) := ⟨rfl, rfl, rfl⟩
theorem xorR16Ra (d : RegIdx) (m : RegAddr) : Statement (.xorR16Ra d m) := ⟨rfl, rfl, rfl⟩
theorem xorR16Ad (d : RegIdx) (a : Word) : Statement (.xorR16Ad d a) := ⟨rfl, rfl, rfl⟩
theorem xorR16W (d : RegIdx) (v : Word) : Statement (.xorR16W d v) := ⟨rfl, rfl, rfl⟩
theorem xorbR8R8 (d : RegIdx) (r : RegIdx) : Statement (.xorbR8R8 d r) := ⟨rfl, rfl, rfl⟩
theorem xorbR8Ra (d : RegIdx) (m : RegAddr) : Statement (.xorbR8Ra d m) := ⟨rfl, rfl, rfl⟩
theorem xorbR8Ad (d : RegIdx) (a : Word) : Statement (.xorbR8Ad d a) := ⟨rfl, rfl, rfl⟩
theorem xorbR8B (d : RegIdx) (v : Byte) : Statement (.xorbR8B d v) := ⟨rfl, rfl, rfl⟩
theorem notR16 (r : RegIdx) : Statement (.notR16 r) := ⟨rfl, rfl, rfl⟩
theorem notbR8 (r : RegIdx) : Statement (.notbR8 r) := ⟨rfl, rfl, rfl⟩
theorem shlR16R16 (d : RegIdx) (r : RegIdx) : Statement (.shlR16R16 d r) := ⟨rfl, rfl, rfl⟩
theorem shlR16Ra (d : RegIdx) (m : RegAddr) : Statement (.shlR16Ra d m) := ⟨rfl, rfl, rfl⟩
theorem shlR16Ad (d : RegIdx) (a : Word) : Statement (.shlR16Ad d a) := ⟨rfl, rfl, rfl⟩
theorem shlR16W (d : RegIdx) (v : Word) : Statement (.shlR16W d v) := ⟨rfl, rfl, rfl⟩
theorem shlbR8R8 (d : RegIdx) (r : RegIdx) : Statement (.shlbR8R8 d r) := ⟨rfl, rfl, rfl⟩
theorem shlbR8Ra (d : RegIdx) (m : RegAddr) : Statement (.shlbR8Ra d m) := ⟨rfl, rfl, rfl⟩
theorem shlbR8Ad (d : RegIdx) (a : Word) : Statement (.shlbR8Ad d a) := ⟨rfl, rfl, rfl⟩
theorem shlbR8B (d : RegIdx) (v : Byte) : Statement (.shlbR8B d v) := ⟨rfl, rfl, rfl⟩
theorem shrR16R16 (d : RegIdx) (r : RegIdx) : Statement (.shrR16R16 d r) := ⟨rfl, rfl, rfl⟩
theorem shrR16Ra (d : RegIdx) (m : RegAddr) : Statement (.shrR16Ra d m) := ⟨rfl, rfl, rfl⟩
theorem shrR16Ad (d : RegIdx) (a : Word) : Statement (.shrR16Ad d a) := ⟨rfl, rfl, rfl⟩
theorem shrR16W (d : RegIdx) (v : Word) : Statement (.shrR16W d v) := ⟨rfl, rfl, rfl⟩
theorem shrbR8R8 (d : RegIdx) (r : RegIdx) : Statement (.shrbR8R8 d r) := ⟨rfl, rfl, rfl⟩
theorem shrbR8Ra (d : RegIdx) (m : RegAddr) : Statement (.shrbR8Ra d m) := ⟨rfl, rfl, rfl⟩
theorem shrbR8Ad (d : RegIdx) (a : Word) : Statement (.shrbR8Ad d a) := ⟨rfl, rfl, rfl⟩
theorem shrbR8B (d : RegIdx) (v : Byte) : Statement (.shrbR8B d v) := ⟨rfl, rfl, rfl⟩
theorem cli : Statement .cli := ⟨rfl, rfl, rfl⟩
theorem sti : Statement .sti := ⟨rfl, rfl, rfl⟩
theorem iret : Statement .iret := ⟨rfl, rfl, rfl⟩
theorem svc : Statement .svc := ⟨rfl, rfl, rfl⟩
theorem inR16 (r : RegIdx) : Statement (.inR16 r) := ⟨rfl, rfl, rfl⟩
theorem inRa (m : RegAddr) : Statement (.inRa m) := ⟨rfl, rfl, rfl⟩
theorem inAd (a : Word) : Statement (.inAd a) := ⟨rfl, rfl, rfl⟩
theorem inW (v : Word) : Statement (.inW v) := ⟨rfl, rfl, rfl⟩
theorem outR16 (r : RegIdx) : Statement (.outR16 r) := ⟨rfl, rfl, rfl⟩
theorem outRa (m : RegAddr) : Statement (.outRa m) := ⟨rfl, rfl, rfl⟩
theorem outAd (a : Word) : Statement (.outAd a) := ⟨rfl, rfl, rfl⟩
theorem outW (v : Word) : Statement (.outW v) := ⟨rfl, rfl, rfl⟩

end Sys2Proof.Laws.EncodingLaw
end

