-- ==== Sys2Proof/Tests/Slice0.lean ====
section
/-! SUPPORT. The model's own tests: the checks of WellFormed on ill-formed terms, the decoding of one word of every row of the opcode map, the
worked examples of the instruction rules (41 to 46), one step each, and a witness for each statement that has hypotheses. -/

open Sys2Proof Sys2Proof.Machine

namespace Sys2Proof.Tests

/-! ### Well-formedness -/

theorem test_wf_refuses_reg16_index : Operand.wf (.r16 5) = false ∧ Operand.wf (.r16 0xFF) = false ∧ Operand.wf (.r16 4) = true := by decide
theorem test_wf_refuses_reg8_index :
    Operand.wf (.r8 8) = false ∧ Operand.wf (.r8 17) = false ∧ Operand.wf (.r8 0) = false ∧ Operand.wf (.r8 16) = true := by decide
theorem test_wf_refuses_base : Operand.wf (.regAddr ⟨0, 5⟩) = false ∧ Operand.wf (.regAddr ⟨0x80, 4⟩) = true := by decide
theorem test_wf_refuses_instruction :
    Instr.wf (.movR16R16 0 9) = false ∧ Instr.wf (.movbRaR8 ⟨0, 0⟩ 4) = false ∧ Instr.wf (.movRaW ⟨0, 16⟩ 0) = false ∧
      Instr.wf (.movR16R16 0 4) = true := by decide
theorem test_wf_refuses_region :
    Region.inMemory 1024 ⟨5, 4, .ro⟩ = false ∧ Region.inMemory 1024 ⟨0, 1024, .ro⟩ = false ∧ Region.inMemory 1024 ⟨0, 1023, .ro⟩ = true ∧
      Region.disjoint ⟨0, 4, .ro⟩ ⟨4, 8, .rw⟩ = false ∧ Region.disjoint ⟨0, 4, .ro⟩ ⟨5, 8, .rw⟩ = true := by decide
theorem test_wf_refuses_parameters :
    Config.wf { Config.standard with memSize := 11 } = false ∧ Config.wf { Config.standard with memSize := 65537 } = false ∧
      Config.wf { Config.standard with regions := [⟨0, 1024, .ro⟩] } = false ∧
      Config.wf { Config.standard with regions := [⟨0, 4, .ro⟩, ⟨4, 8, .rw⟩] } = false ∧
      Config.wf { Config.standard with ioTmrPreload := 2 } = false ∧ Config.wf { Config.standard with ioTmrCounter := 3 } = false ∧
      Config.wf { Config.standard with extIo := [⟨4, .rw, 0⟩] } = false ∧
      Config.wf { Config.standard with extIo := [⟨5, .rw, 0⟩, ⟨5, .ro, 0⟩] } = false ∧ Config.wf Config.standard = true := by decide

/-! ### Decoding: one word of every row, written out from the row's encoding (30_encoding R122, R123, R131) -/

/-- Whether the bytes decode to the instruction, with nothing left. -/
def decodes (bytes : List Byte) (i : Instr) : Bool :=
  match decode bytes with
  | .ok (j, []) => j == i
  | _ => false

/-- Whether decoding the bytes fails with the reason. -/
def refused (bytes : List Byte) (e : DecodeError) : Bool :=
  match decode bytes with
  | .ok _ => false
  | .error d => d == e

theorem test_decode_system :
    decodes [0x00] .hlt = true := by decide

theorem test_decode_data_movement :
    decodes [0x01, 0x03, 0x04] (.movR16R16 3 4) = true ∧
    decodes [0x02, 0x03, 0x02, 0x81] (.movR16Ad 3 0x0281) = true ∧
    decodes [0x03, 0x03, 0xFE, 0x04] (.movR16Ra 3 ⟨0xFE, 4⟩) = true ∧
    decodes [0x04, 0x02, 0x81, 0x04] (.movAdR16 0x0281 4) = true ∧
    decodes [0x05, 0xFE, 0x04, 0x04] (.movRaR16 ⟨0xFE, 4⟩ 4) = true ∧
    decodes [0x06, 0x03, 0x12, 0x34] (.movR16W 3 0x1234) = true ∧
    decodes [0x07, 0x02, 0x81, 0x12, 0x34] (.movAdW 0x0281 0x1234) = true ∧
    decodes [0x08, 0xFE, 0x04, 0x12, 0x34] (.movRaW ⟨0xFE, 4⟩ 0x1234) = true ∧
    decodes [0x09, 0x09, 0x10] (.movbR8R8 9 16) = true ∧
    decodes [0x0A, 0x09, 0x02, 0x81] (.movbR8Ad 9 0x0281) = true ∧
    decodes [0x0B, 0x09, 0xFE, 0x04] (.movbR8Ra 9 ⟨0xFE, 4⟩) = true ∧
    decodes [0x0C, 0x02, 0x81, 0x10] (.movbAdR8 0x0281 16) = true ∧
    decodes [0x0D, 0xFE, 0x04, 0x10] (.movbRaR8 ⟨0xFE, 4⟩ 16) = true ∧
    decodes [0x0E, 0x09, 0xA5] (.movbR8B 9 0xA5) = true ∧
    decodes [0x0F, 0x02, 0x81, 0xA5] (.movbAdB 0x0281 0xA5) = true ∧
    decodes [0x10, 0xFE, 0x04, 0xA5] (.movbRaB ⟨0xFE, 4⟩ 0xA5) = true := by decide

theorem test_decode_arithmetic :
    decodes [0x11, 0x03, 0x04] (.addR16R16 3 4) = true ∧
    decodes [0x12, 0x03, 0xFE, 0x04] (.addR16Ra 3 ⟨0xFE, 4⟩) = true ∧
    decodes [0x13, 0x03, 0x02, 0x81] (.addR16Ad 3 0x0281) = true ∧
    decodes [0x14, 0x03, 0x12, 0x34] (.addR16W 3 0x1234) = true ∧
    decodes [0x15, 0x09, 0x10] (.addbR8R8 9 16) = true ∧
    decodes [0x16, 0x09, 0xFE, 0x04] (.addbR8Ra 9 ⟨0xFE, 4⟩) = true ∧
    decodes [0x17, 0x09, 0x02, 0x81] (.addbR8Ad 9 0x0281) = true ∧
    decodes [0x18, 0x09, 0xA5] (.addbR8B 9 0xA5) = true ∧
    decodes [0x19, 0x03, 0x04] (.subR16R16 3 4) = true ∧
    decodes [0x1A, 0x03, 0xFE, 0x04] (.subR16Ra 3 ⟨0xFE, 4⟩) = true ∧
    decodes [0x1B, 0x03, 0x02, 0x81] (.subR16Ad 3 0x0281) = true ∧
    decodes [0x1C, 0x03, 0x12, 0x34] (.subR16W 3 0x1234) = true ∧
    decodes [0x1D, 0x09, 0x10] (.subbR8R8 9 16) = true ∧
    decodes [0x1E, 0x09, 0xFE, 0x04] (.subbR8Ra 9 ⟨0xFE, 4⟩) = true ∧
    decodes [0x1F, 0x09, 0x02, 0x81] (.subbR8Ad 9 0x0281) = true ∧
    decodes [0x20, 0x09, 0xA5] (.subbR8B 9 0xA5) = true ∧
    decodes [0x21, 0x03] (.incR16 3) = true ∧
    decodes [0x22, 0x09] (.incbR8 9) = true ∧
    decodes [0x23, 0x03] (.decR16 3) = true ∧
    decodes [0x24, 0x09] (.decbR8 9) = true ∧
    decodes [0x25, 0x03, 0x04] (.cmpR16R16 3 4) = true ∧
    decodes [0x26, 0x03, 0xFE, 0x04] (.cmpR16Ra 3 ⟨0xFE, 4⟩) = true ∧
    decodes [0x27, 0x03, 0x02, 0x81] (.cmpR16Ad 3 0x0281) = true ∧
    decodes [0x28, 0x03, 0x12, 0x34] (.cmpR16W 3 0x1234) = true ∧
    decodes [0x29, 0x09, 0x10] (.cmpbR8R8 9 16) = true ∧
    decodes [0x2A, 0x09, 0xFE, 0x04] (.cmpbR8Ra 9 ⟨0xFE, 4⟩) = true ∧
    decodes [0x2B, 0x09, 0x02, 0x81] (.cmpbR8Ad 9 0x0281) = true ∧
    decodes [0x2C, 0x09, 0xA5] (.cmpbR8B 9 0xA5) = true := by decide

theorem test_decode_control_transfer :
    decodes [0x2D, 0xFE, 0x04] (.jmpRa ⟨0xFE, 4⟩) = true ∧
    decodes [0x2E, 0x12, 0x34] (.jmpW 0x1234) = true ∧
    decodes [0x2F, 0xFE, 0x04] (.jcRa ⟨0xFE, 4⟩) = true ∧
    decodes [0x30, 0x12, 0x34] (.jcW 0x1234) = true ∧
    decodes [0x31, 0xFE, 0x04] (.jncRa ⟨0xFE, 4⟩) = true ∧
    decodes [0x32, 0x12, 0x34] (.jncW 0x1234) = true ∧
    decodes [0x33, 0xFE, 0x04] (.jzRa ⟨0xFE, 4⟩) = true ∧
    decodes [0x34, 0x12, 0x34] (.jzW 0x1234) = true ∧
    decodes [0x35, 0xFE, 0x04] (.jnzRa ⟨0xFE, 4⟩) = true ∧
    decodes [0x36, 0x12, 0x34] (.jnzW 0x1234) = true ∧
    decodes [0x37, 0xFE, 0x04] (.jaRa ⟨0xFE, 4⟩) = true ∧
    decodes [0x38, 0x12, 0x34] (.jaW 0x1234) = true ∧
    decodes [0x39, 0xFE, 0x04] (.jnaRa ⟨0xFE, 4⟩) = true ∧
    decodes [0x3A, 0x12, 0x34] (.jnaW 0x1234) = true := by decide

theorem test_decode_stack :
    decodes [0x3B, 0x03] (.pushR16 3) = true ∧
    decodes [0x3C, 0xFE, 0x04] (.pushRa ⟨0xFE, 4⟩) = true ∧
    decodes [0x3D, 0x02, 0x81] (.pushAd 0x0281) = true ∧
    decodes [0x3E, 0x12, 0x34] (.pushW 0x1234) = true ∧
    decodes [0x3F, 0x09] (.pushbR8 9) = true ∧
    decodes [0x40, 0xFE, 0x04] (.pushbRa ⟨0xFE, 4⟩) = true ∧
    decodes [0x41, 0x02, 0x81] (.pushbAd 0x0281) = true ∧
    decodes [0x42, 0xA5] (.pushbB 0xA5) = true ∧
    decodes [0x43, 0x03] (.popR16 3) = true ∧
    decodes [0x44, 0x09] (.popbR8 9) = true := by decide

theorem test_decode_control_transfer_2 :
    decodes [0x45, 0xFE, 0x04] (.callRa ⟨0xFE, 4⟩) = true ∧
    decodes [0x46, 0x12, 0x34] (.callW 0x1234) = true ∧
    decodes [0x47] .ret = true := by decide

theorem test_decode_arithmetic_2 :
    decodes [0x48, 0x03] (.mulR16 3) = true ∧
    decodes [0x49, 0xFE, 0x04] (.mulRa ⟨0xFE, 4⟩) = true ∧
    decodes [0x4A, 0x02, 0x81] (.mulAd 0x0281) = true ∧
    decodes [0x4B, 0x12, 0x34] (.mulW 0x1234) = true ∧
    decodes [0x4C, 0x09] (.mulbR8 9) = true ∧
    decodes [0x4D, 0xFE, 0x04] (.mulbRa ⟨0xFE, 4⟩) = true ∧
    decodes [0x4E, 0x02, 0x81] (.mulbAd 0x0281) = true ∧
    decodes [0x4F, 0xA5] (.mulbB 0xA5) = true ∧
    decodes [0x50, 0x03] (.divR16 3) = true ∧
    decodes [0x51, 0xFE, 0x04] (.divRa ⟨0xFE, 4⟩) = true ∧
    decodes [0x52, 0x02, 0x81] (.divAd 0x0281) = true ∧
    decodes [0x53, 0x12, 0x34] (.divW 0x1234) = true ∧
    decodes [0x54, 0x09] (.divbR8 9) = true ∧
    decodes [0x55, 0xFE, 0x04] (.divbRa ⟨0xFE, 4⟩) = true ∧
    decodes [0x56, 0x02, 0x81] (.divbAd 0x0281) = true ∧
    decodes [0x57, 0xA5] (.divbB 0xA5) = true := by decide

theorem test_decode_logic_shift :
    decodes [0x58, 0x03, 0x04] (.andR16R16 3 4) = true ∧
    decodes [0x59, 0x03, 0xFE, 0x04] (.andR16Ra 3 ⟨0xFE, 4⟩) = true ∧
    decodes [0x5A, 0x03, 0x02, 0x81] (.andR16Ad 3 0x0281) = true ∧
    decodes [0x5B, 0x03, 0x12, 0x34] (.andR16W 3 0x1234) = true ∧
    decodes [0x5C, 0x09, 0x10] (.andbR8R8 9 16) = true ∧
    decodes [0x5D, 0x09, 0xFE, 0x04] (.andbR8Ra 9 ⟨0xFE, 4⟩) = true ∧
    decodes [0x5E, 0x09, 0x02, 0x81] (.andbR8Ad 9 0x0281) = true ∧
    decodes [0x5F, 0x09, 0xA5] (.andbR8B 9 0xA5) = true ∧
    decodes [0x60, 0x03, 0x04] (.orR16R16 3 4) = true ∧
    decodes [0x61, 0x03, 0xFE, 0x04] (.orR16Ra 3 ⟨0xFE, 4⟩) = true ∧
    decodes [0x62, 0x03, 0x02, 0x81] (.orR16Ad 3 0x0281) = true ∧
    decodes [0x63, 0x03, 0x12, 0x34] (.orR16W 3 0x1234) = true ∧
    decodes [0x64, 0x09, 0x10] (.orbR8R8 9 16) = true ∧
    decodes [0x65, 0x09, 0xFE, 0x04] (.orbR8Ra 9 ⟨0xFE, 4⟩) = true ∧
    decodes [0x66, 0x09, 0x02, 0x81] (.orbR8Ad 9 0x0281) = true ∧
    decodes [0x67, 0x09, 0xA5] (.orbR8B 9 0xA5) = true ∧
    decodes [0x68, 0x03, 0x04] (.xorR16R16 3 4) = true ∧
    decodes [0x69, 0x03, 0xFE, 0x04] (.xorR16Ra 3 ⟨0xFE, 4⟩) = true ∧
    decodes [0x6A, 0x03, 0x02, 0x81] (.xorR16Ad 3 0x0281) = true ∧
    decodes [0x6B, 0x03, 0x12, 0x34] (.xorR16W 3 0x1234) = true ∧
    decodes [0x6C, 0x09, 0x10] (.xorbR8R8 9 16) = true ∧
    decodes [0x6D, 0x09, 0xFE, 0x04] (.xorbR8Ra 9 ⟨0xFE, 4⟩) = true ∧
    decodes [0x6E, 0x09, 0x02, 0x81] (.xorbR8Ad 9 0x0281) = true ∧
    decodes [0x6F, 0x09, 0xA5] (.xorbR8B 9 0xA5) = true ∧
    decodes [0x70, 0x03] (.notR16 3) = true ∧
    decodes [0x71, 0x09] (.notbR8 9) = true ∧
    decodes [0x72, 0x03, 0x04] (.shlR16R16 3 4) = true ∧
    decodes [0x73, 0x03, 0xFE, 0x04] (.shlR16Ra 3 ⟨0xFE, 4⟩) = true ∧
    decodes [0x74, 0x03, 0x02, 0x81] (.shlR16Ad 3 0x0281) = true ∧
    decodes [0x75, 0x03, 0x12, 0x34] (.shlR16W 3 0x1234) = true := by decide

theorem test_decode_logic_shift_2b :
    decodes [0x76, 0x09, 0x10] (.shlbR8R8 9 16) = true ∧
    decodes [0x77, 0x09, 0xFE, 0x04] (.shlbR8Ra 9 ⟨0xFE, 4⟩) = true ∧
    decodes [0x78, 0x09, 0x02, 0x81] (.shlbR8Ad 9 0x0281) = true ∧
    decodes [0x79, 0x09, 0xA5] (.shlbR8B 9 0xA5) = true ∧
    decodes [0x7A, 0x03, 0x04] (.shrR16R16 3 4) = true ∧
    decodes [0x7B, 0x03, 0xFE, 0x04] (.shrR16Ra 3 ⟨0xFE, 4⟩) = true ∧
    decodes [0x7C, 0x03, 0x02, 0x81] (.shrR16Ad 3 0x0281) = true ∧
    decodes [0x7D, 0x03, 0x12, 0x34] (.shrR16W 3 0x1234) = true ∧
    decodes [0x7E, 0x09, 0x10] (.shrbR8R8 9 16) = true ∧
    decodes [0x7F, 0x09, 0xFE, 0x04] (.shrbR8Ra 9 ⟨0xFE, 4⟩) = true ∧
    decodes [0x80, 0x09, 0x02, 0x81] (.shrbR8Ad 9 0x0281) = true ∧
    decodes [0x81, 0x09, 0xA5] (.shrbR8B 9 0xA5) = true := by decide

theorem test_decode_system_2 :
    decodes [0x82] .cli = true ∧
    decodes [0x83] .sti = true ∧
    decodes [0x84] .iret = true ∧
    decodes [0x85] .svc = true ∧
    decodes [0x86, 0x03] (.inR16 3) = true ∧
    decodes [0x87, 0xFE, 0x04] (.inRa ⟨0xFE, 4⟩) = true ∧
    decodes [0x88, 0x02, 0x81] (.inAd 0x0281) = true ∧
    decodes [0x89, 0x12, 0x34] (.inW 0x1234) = true ∧
    decodes [0x8A, 0x03] (.outR16 3) = true ∧
    decodes [0x8B, 0xFE, 0x04] (.outRa ⟨0xFE, 4⟩) = true ∧
    decodes [0x8C, 0x02, 0x81] (.outAd 0x0281) = true ∧
    decodes [0x8D, 0x12, 0x34] (.outW 0x1234) = true := by decide

theorem test_decode_refuses :
    refused [0x8E] .unknownOpcode = true ∧ refused [0xFF] .unknownOpcode = true ∧ refused [0x03, 0x00, 0x00, 0x05] .illegalBase = true ∧
      refused [0x03, 0x00, 0x00] .fetch = true ∧ refused [] .fetch = true := by decide

/-- A word as spec/opcode_table.json numbers it: byte 0 is the least significant one. -/
theorem test_table_word :
    decodeTableWord 32 0x34120106 = some (.movR16W 1 0x1234) ∧ decodeTableWord 8 0x00 = some .hlt ∧ decodeTableWord 8 0x8E = none := by decide

/-! ### One step: the worked examples of the rules R201 to R393 -/

/-- The state the examples start from, with what they name changed: the base state of 95_test_vectors. -/
def base : State :=
  { State.reset with a := 0x1234, b := 0x00F0, c := 0x0003, d := 0x0200, usp := 0x02FF, ssp := 0x03F9, ip := 0x0100 }

/-- Whether one step of the machine with these bytes at IP gives a next state that passes the check. -/
def runs (bytes : List Byte) (s : State) (check : State → Bool) : Bool :=
  match step (pokeAll bytes s.ip.toNat s) with
  | .next t => check t
  | _ => false

theorem test_mov :
    runs [0x01, 0x00, 0x02] base (fun t => t.a == 0x0003 && t.sr == 0x8000 && t.ip == 0x0103) = true ∧
    runs [0x02, 0x00, 0x02, 0x04] { base with mem := [(0x0205, 0x07)] } (fun t => t.a == 0x0007 && t.sr == 0x8000 && t.ip == 0x0104) = true ∧
    runs [0x03, 0x00, 0x02, 0x03] { base with mem := [(0x0203, 0x05)] } (fun t => t.a == 0x0005 && t.sr == 0x8000 && t.ip == 0x0104) = true ∧
    runs [0x04, 0x02, 0x04, 0x02] base (fun t => t.sr == 0x8000 && t.ip == 0x0104 && t.mem.read 0x0204 == 0x00 && t.mem.read 0x0205 == 0x03) = true ∧
    runs [0x05, 0x02, 0x03, 0x02] base (fun t => t.sr == 0x8000 && t.ip == 0x0104 && t.mem.read 0x0202 == 0x00 && t.mem.read 0x0203 == 0x03) = true ∧
    runs [0x06, 0x00, 0x00, 0x09] base (fun t => t.a == 0x0009 && t.sr == 0x8000 && t.ip == 0x0104) = true ∧
    runs [0x07, 0x02, 0x04, 0x00, 0x09] base (fun t => t.sr == 0x8000 && t.ip == 0x0105 && t.mem.read 0x0204 == 0x00 && t.mem.read 0x0205 == 0x09) = true ∧
    runs [0x08, 0x02, 0x03, 0x00, 0x09] base (fun t => t.sr == 0x8000 && t.ip == 0x0105 && t.mem.read 0x0202 == 0x00 && t.mem.read 0x0203 == 0x09) = true := by decide

theorem test_movb :
    runs [0x09, 0x0A, 0x0E] base (fun t => t.a == 0x1203 && t.sr == 0x8000 && t.ip == 0x0103) = true ∧
    runs [0x0A, 0x0A, 0x02, 0x05] { base with mem := [(0x0205, 0x07)] } (fun t => t.a == 0x1207 && t.sr == 0x8000 && t.ip == 0x0104) = true ∧
    runs [0x0B, 0x0A, 0x03, 0x03] { base with mem := [(0x0203, 0x05)] } (fun t => t.a == 0x1205 && t.sr == 0x8000 && t.ip == 0x0104) = true ∧
    runs [0x0C, 0x02, 0x05, 0x0E] base (fun t => t.sr == 0x8000 && t.ip == 0x0104 && t.mem.read 0x0205 == 0x03) = true ∧
    runs [0x0D, 0x03, 0x03, 0x0E] base (fun t => t.sr == 0x8000 && t.ip == 0x0104 && t.mem.read 0x0203 == 0x03) = true ∧
    runs [0x0E, 0x0A, 0x09] base (fun t => t.a == 0x1209 && t.sr == 0x8000 && t.ip == 0x0103) = true ∧
    runs [0x0F, 0x02, 0x05, 0x09] base (fun t => t.sr == 0x8000 && t.ip == 0x0104 && t.mem.read 0x0205 == 0x09) = true ∧
    runs [0x10, 0x03, 0x03, 0x09] base (fun t => t.sr == 0x8000 && t.ip == 0x0104 && t.mem.read 0x0203 == 0x09) = true := by decide

theorem test_add :
    runs [0x11, 0x00, 0x02] base (fun t => t.a == 0x1237 && t.sr == 0x8000 && t.ip == 0x0103) = true ∧
    runs [0x12, 0x00, 0x02, 0x03] { base with mem := [(0x0203, 0x05)] } (fun t => t.a == 0x1239 && t.sr == 0x8000 && t.ip == 0x0104) = true ∧
    runs [0x13, 0x00, 0x02, 0x04] { base with mem := [(0x0205, 0x07)] } (fun t => t.a == 0x123B && t.sr == 0x8000 && t.ip == 0x0104) = true ∧
    runs [0x14, 0x00, 0x00, 0x09] base (fun t => t.a == 0x123D && t.sr == 0x8000 && t.ip == 0x0104) = true := by decide

theorem test_addb :
    runs [0x15, 0x0A, 0x0E] base (fun t => t.a == 0x1237 && t.sr == 0x8000 && t.ip == 0x0103) = true ∧
    runs [0x16, 0x0A, 0x03, 0x03] { base with mem := [(0x0203, 0x05)] } (fun t => t.a == 0x1239 && t.sr == 0x8000 && t.ip == 0x0104) = true ∧
    runs [0x17, 0x0A, 0x02, 0x05] { base with mem := [(0x0205, 0x07)] } (fun t => t.a == 0x123B && t.sr == 0x8000 && t.ip == 0x0104) = true ∧
    runs [0x18, 0x0A, 0x09] base (fun t => t.a == 0x123D && t.sr == 0x8000 && t.ip == 0x0103) = true := by decide

theorem test_sub :
    runs [0x19, 0x00, 0x02] base (fun t => t.a == 0x1231 && t.sr == 0x8000 && t.ip == 0x0103) = true ∧
    runs [0x1A, 0x00, 0x02, 0x03] { base with mem := [(0x0203, 0x05)] } (fun t => t.a == 0x122F && t.sr == 0x8000 && t.ip == 0x0104) = true ∧
    runs [0x1B, 0x00, 0x02, 0x04] { base with mem := [(0x0205, 0x07)] } (fun t => t.a == 0x122D && t.sr == 0x8000 && t.ip == 0x0104) = true ∧
    runs [0x1C, 0x00, 0x00, 0x09] base (fun t => t.a == 0x122B && t.sr == 0x8000 && t.ip == 0x0104) = true := by decide

theorem test_subb :
    runs [0x1D, 0x0A, 0x0E] base (fun t => t.a == 0x1231 && t.sr == 0x8000 && t.ip == 0x0103) = true ∧
    runs [0x1E, 0x0A, 0x03, 0x03] { base with mem := [(0x0203, 0x05)] } (fun t => t.a == 0x122F && t.sr == 0x8000 && t.ip == 0x0104) = true ∧
    runs [0x1F, 0x0A, 0x02, 0x05] { base with mem := [(0x0205, 0x07)] } (fun t => t.a == 0x122D && t.sr == 0x8000 && t.ip == 0x0104) = true ∧
    runs [0x20, 0x0A, 0x09] base (fun t => t.a == 0x122B && t.sr == 0x8000 && t.ip == 0x0103) = true := by decide

theorem test_inc :
    runs [0x21, 0x00] base (fun t => t.a == 0x1235 && t.sr == 0x8000 && t.ip == 0x0102) = true := by decide

theorem test_incb :
    runs [0x22, 0x0A] base (fun t => t.a == 0x1235 && t.sr == 0x8000 && t.ip == 0x0102) = true := by decide

theorem test_dec :
    runs [0x23, 0x00] base (fun t => t.a == 0x1233 && t.sr == 0x8000 && t.ip == 0x0102) = true := by decide

theorem test_decb :
    runs [0x24, 0x0A] base (fun t => t.a == 0x1233 && t.sr == 0x8000 && t.ip == 0x0102) = true := by decide

theorem test_cmp :
    runs [0x25, 0x00, 0x02] base (fun t => t.sr == 0x8000 && t.ip == 0x0103) = true ∧
    runs [0x26, 0x00, 0x02, 0x03] { base with mem := [(0x0203, 0x05)] } (fun t => t.sr == 0x8000 && t.ip == 0x0104) = true ∧
    runs [0x27, 0x00, 0x02, 0x04] { base with mem := [(0x0205, 0x07)] } (fun t => t.sr == 0x8000 && t.ip == 0x0104) = true ∧
    runs [0x28, 0x00, 0x00, 0x09] base (fun t => t.sr == 0x8000 && t.ip == 0x0104) = true := by decide

theorem test_cmpb :
    runs [0x29, 0x0A, 0x0E] base (fun t => t.sr == 0x8000 && t.ip == 0x0103) = true ∧
    runs [0x2A, 0x0A, 0x03, 0x03] { base with mem := [(0x0203, 0x05)] } (fun t => t.sr == 0x8000 && t.ip == 0x0104) = true ∧
    runs [0x2B, 0x0A, 0x02, 0x05] { base with mem := [(0x0205, 0x07)] } (fun t => t.sr == 0x8000 && t.ip == 0x0104) = true ∧
    runs [0x2C, 0x0A, 0x09] base (fun t => t.sr == 0x8000 && t.ip == 0x0103) = true := by decide

theorem test_mul :
    runs [0x48, 0x02] base (fun t => t.a == 0x369C && t.sr == 0x8000 && t.ip == 0x0102) = true ∧
    runs [0x49, 0x02, 0x03] { base with mem := [(0x0203, 0x05)] } (fun t => t.a == 0x5B04 && t.sr == 0x8000 && t.ip == 0x0103) = true ∧
    runs [0x4A, 0x02, 0x04] { base with mem := [(0x0205, 0x07)] } (fun t => t.a == 0x7F6C && t.sr == 0x8000 && t.ip == 0x0103) = true ∧
    runs [0x4B, 0x00, 0x09] base (fun t => t.a == 0xA3D4 && t.sr == 0x8000 && t.ip == 0x0103) = true := by decide

theorem test_mulb :
    runs [0x4C, 0x0E] base (fun t => t.a == 0x129C && t.sr == 0x8000 && t.ip == 0x0102) = true ∧
    runs [0x4D, 0x03, 0x03] { base with mem := [(0x0203, 0x05)] } (fun t => t.a == 0x1204 && t.sr == 0x8008 && t.ip == 0x0103) = true ∧
    runs [0x4E, 0x02, 0x05] { base with mem := [(0x0205, 0x07)] } (fun t => t.a == 0x126C && t.sr == 0x8008 && t.ip == 0x0103) = true ∧
    runs [0x4F, 0x09] base (fun t => t.a == 0x12D4 && t.sr == 0x8008 && t.ip == 0x0102) = true := by decide

theorem test_div :
    runs [0x50, 0x02] base (fun t => t.a == 0x0611 && t.sr == 0x8000 && t.ip == 0x0102) = true ∧
    runs [0x51, 0x02, 0x03] { base with mem := [(0x0203, 0x05)] } (fun t => t.a == 0x03A4 && t.sr == 0x8000 && t.ip == 0x0103) = true ∧
    runs [0x52, 0x02, 0x04] { base with mem := [(0x0205, 0x07)] } (fun t => t.a == 0x0299 && t.sr == 0x8000 && t.ip == 0x0103) = true ∧
    runs [0x53, 0x00, 0x09] base (fun t => t.a == 0x0205 && t.sr == 0x8000 && t.ip == 0x0103) = true := by decide

theorem test_divb :
    runs [0x54, 0x0E] base (fun t => t.a == 0x1211 && t.sr == 0x8000 && t.ip == 0x0102) = true ∧
    runs [0x55, 0x03, 0x03] { base with mem := [(0x0203, 0x05)] } (fun t => t.a == 0x120A && t.sr == 0x8000 && t.ip == 0x0103) = true ∧
    runs [0x56, 0x02, 0x05] { base with mem := [(0x0205, 0x07)] } (fun t => t.a == 0x1207 && t.sr == 0x8000 && t.ip == 0x0103) = true ∧
    runs [0x57, 0x09] base (fun t => t.a == 0x1205 && t.sr == 0x8000 && t.ip == 0x0102) = true := by decide

theorem test_and :
    runs [0x58, 0x00, 0x02] base (fun t => t.a == 0x0000 && t.sr == 0x8004 && t.ip == 0x0103) = true ∧
    runs [0x59, 0x00, 0x02, 0x03] { base with mem := [(0x0203, 0x05)] } (fun t => t.a == 0x0004 && t.sr == 0x8000 && t.ip == 0x0104) = true ∧
    runs [0x5A, 0x00, 0x02, 0x04] { base with mem := [(0x0205, 0x07)] } (fun t => t.a == 0x0004 && t.sr == 0x8000 && t.ip == 0x0104) = true ∧
    runs [0x5B, 0x00, 0x00, 0x09] base (fun t => t.a == 0x0000 && t.sr == 0x8004 && t.ip == 0x0104) = true := by decide

theorem test_andb :
    runs [0x5C, 0x0A, 0x0E] base (fun t => t.a == 0x1200 && t.sr == 0x8004 && t.ip == 0x0103) = true ∧
    runs [0x5D, 0x0A, 0x03, 0x03] { base with mem := [(0x0203, 0x05)] } (fun t => t.a == 0x1204 && t.sr == 0x8000 && t.ip == 0x0104) = true ∧
    runs [0x5E, 0x0A, 0x02, 0x05] { base with mem := [(0x0205, 0x07)] } (fun t => t.a == 0x1204 && t.sr == 0x8000 && t.ip == 0x0104) = true ∧
    runs [0x5F, 0x0A, 0x09] base (fun t => t.a == 0x1200 && t.sr == 0x8004 && t.ip == 0x0103) = true := by decide

theorem test_or :
    runs [0x60, 0x00, 0x02] base (fun t => t.a == 0x1237 && t.sr == 0x8000 && t.ip == 0x0103) = true ∧
    runs [0x61, 0x00, 0x02, 0x03] { base with mem := [(0x0203, 0x05)] } (fun t => t.a == 0x1235 && t.sr == 0x8000 && t.ip == 0x0104) = true ∧
    runs [0x62, 0x00, 0x02, 0x04] { base with mem := [(0x0205, 0x07)] } (fun t => t.a == 0x1237 && t.sr == 0x8000 && t.ip == 0x0104) = true ∧
    runs [0x63, 0x00, 0x00, 0x09] base (fun t => t.a == 0x123D && t.sr == 0x8000 && t.ip == 0x0104) = true := by decide

theorem test_orb :
    runs [0x64, 0x0A, 0x0E] base (fun t => t.a == 0x1237 && t.sr == 0x8000 && t.ip == 0x0103) = true ∧
    runs [0x65, 0x0A, 0x03, 0x03] { base with mem := [(0x0203, 0x05)] } (fun t => t.a == 0x1235 && t.sr == 0x8000 && t.ip == 0x0104) = true ∧
    runs [0x66, 0x0A, 0x02, 0x05] { base with mem := [(0x0205, 0x07)] } (fun t => t.a == 0x1237 && t.sr == 0x8000 && t.ip == 0x0104) = true ∧
    runs [0x67, 0x0A, 0x09] base (fun t => t.a == 0x123D && t.sr == 0x8000 && t.ip == 0x0103) = true := by decide

theorem test_xor :
    runs [0x68, 0x00, 0x02] base (fun t => t.a == 0x1237 && t.sr == 0x8000 && t.ip == 0x0103) = true ∧
    runs [0x69, 0x00, 0x02, 0x03] { base with mem := [(0x0203, 0x05)] } (fun t => t.a == 0x1231 && t.sr == 0x8000 && t.ip == 0x0104) = true ∧
    runs [0x6A, 0x00, 0x02, 0x04] { base with mem := [(0x0205, 0x07)] } (fun t => t.a == 0x1233 && t.sr == 0x8000 && t.ip == 0x0104) = true ∧
    runs [0x6B, 0x00, 0x00, 0x09] base (fun t => t.a == 0x123D && t.sr == 0x8000 && t.ip == 0x0104) = true := by decide

theorem test_xorb :
    runs [0x6C, 0x0A, 0x0E] base (fun t => t.a == 0x1237 && t.sr == 0x8000 && t.ip == 0x0103) = true ∧
    runs [0x6D, 0x0A, 0x03, 0x03] { base with mem := [(0x0203, 0x05)] } (fun t => t.a == 0x1231 && t.sr == 0x8000 && t.ip == 0x0104) = true ∧
    runs [0x6E, 0x0A, 0x02, 0x05] { base with mem := [(0x0205, 0x07)] } (fun t => t.a == 0x1233 && t.sr == 0x8000 && t.ip == 0x0104) = true ∧
    runs [0x6F, 0x0A, 0x09] base (fun t => t.a == 0x123D && t.sr == 0x8000 && t.ip == 0x0103) = true := by decide

theorem test_not :
    runs [0x70, 0x00] base (fun t => t.a == 0xEDCB && t.sr == 0x8000 && t.ip == 0x0102) = true := by decide

theorem test_notb :
    runs [0x71, 0x0A] base (fun t => t.a == 0x12CB && t.sr == 0x8000 && t.ip == 0x0102) = true := by decide

theorem test_shl :
    runs [0x72, 0x00, 0x02] base (fun t => t.a == 0x91A0 && t.sr == 0x8000 && t.ip == 0x0103) = true ∧
    runs [0x73, 0x00, 0x02, 0x03] { base with mem := [(0x0203, 0x05)] } (fun t => t.a == 0x4680 && t.sr == 0x8008 && t.ip == 0x0104) = true ∧
    runs [0x74, 0x00, 0x02, 0x04] { base with mem := [(0x0205, 0x07)] } (fun t => t.a == 0x1A00 && t.sr == 0x8008 && t.ip == 0x0104) = true ∧
    runs [0x75, 0x00, 0x00, 0x09] base (fun t => t.a == 0x6800 && t.sr == 0x8008 && t.ip == 0x0104) = true := by decide

theorem test_shlb :
    runs [0x76, 0x0A, 0x0E] base (fun t => t.a == 0x12A0 && t.sr == 0x8008 && t.ip == 0x0103) = true ∧
    runs [0x77, 0x0A, 0x03, 0x03] { base with mem := [(0x0203, 0x05)] } (fun t => t.a == 0x1280 && t.sr == 0x8008 && t.ip == 0x0104) = true ∧
    runs [0x78, 0x0A, 0x02, 0x05] { base with mem := [(0x0205, 0x07)] } (fun t => t.a == 0x1200 && t.sr == 0x800C && t.ip == 0x0104) = true ∧
    runs [0x79, 0x0A, 0x09] base (fun t => t.a == 0x1200 && t.sr == 0x800C && t.ip == 0x0103) = true := by decide

theorem test_shr :
    runs [0x7A, 0x00, 0x02] base (fun t => t.a == 0x0246 && t.sr == 0x8000 && t.ip == 0x0103) = true ∧
    runs [0x7B, 0x00, 0x02, 0x03] { base with mem := [(0x0203, 0x05)] } (fun t => t.a == 0x0091 && t.sr == 0x8000 && t.ip == 0x0104) = true ∧
    runs [0x7C, 0x00, 0x02, 0x04] { base with mem := [(0x0205, 0x07)] } (fun t => t.a == 0x0024 && t.sr == 0x8000 && t.ip == 0x0104) = true ∧
    runs [0x7D, 0x00, 0x00, 0x09] base (fun t => t.a == 0x0009 && t.sr == 0x8000 && t.ip == 0x0104) = true := by decide

theorem test_shrb :
    runs [0x7E, 0x0A, 0x0E] base (fun t => t.a == 0x1206 && t.sr == 0x8000 && t.ip == 0x0103) = true ∧
    runs [0x7F, 0x0A, 0x03, 0x03] { base with mem := [(0x0203, 0x05)] } (fun t => t.a == 0x1201 && t.sr == 0x8000 && t.ip == 0x0104) = true ∧
    runs [0x80, 0x0A, 0x02, 0x05] { base with mem := [(0x0205, 0x07)] } (fun t => t.a == 0x1200 && t.sr == 0x8004 && t.ip == 0x0104) = true ∧
    runs [0x81, 0x0A, 0x09] base (fun t => t.a == 0x1200 && t.sr == 0x8004 && t.ip == 0x0103) = true := by decide

theorem test_jmp :
    runs [0x2D, 0x02, 0x03] base (fun t => t.sr == 0x8000 && t.ip == 0x0202) = true ∧
    runs [0x2E, 0x01, 0x50] base (fun t => t.sr == 0x8000 && t.ip == 0x0150) = true := by decide

theorem test_jc :
    runs [0x2F, 0x02, 0x03] { base with sr := 0x8008 } (fun t => t.sr == 0x8008 && t.ip == 0x0202) = true ∧
    runs [0x30, 0x01, 0x50] { base with sr := 0x8008 } (fun t => t.sr == 0x8008 && t.ip == 0x0150) = true := by decide

theorem test_jnc :
    runs [0x31, 0x02, 0x03] base (fun t => t.sr == 0x8000 && t.ip == 0x0202) = true ∧
    runs [0x32, 0x01, 0x50] base (fun t => t.sr == 0x8000 && t.ip == 0x0150) = true := by decide

theorem test_jz :
    runs [0x33, 0x02, 0x03] { base with sr := 0x8004 } (fun t => t.sr == 0x8004 && t.ip == 0x0202) = true ∧
    runs [0x34, 0x01, 0x50] { base with sr := 0x8004 } (fun t => t.sr == 0x8004 && t.ip == 0x0150) = true := by decide

theorem test_jnz :
    runs [0x35, 0x02, 0x03] base (fun t => t.sr == 0x8000 && t.ip == 0x0202) = true ∧
    runs [0x36, 0x01, 0x50] base (fun t => t.sr == 0x8000 && t.ip == 0x0150) = true := by decide

theorem test_ja :
    runs [0x37, 0x02, 0x03] base (fun t => t.sr == 0x8000 && t.ip == 0x0202) = true ∧
    runs [0x38, 0x01, 0x50] base (fun t => t.sr == 0x8000 && t.ip == 0x0150) = true := by decide

theorem test_jna :
    runs [0x39, 0x02, 0x03] { base with sr := 0x8008 } (fun t => t.sr == 0x8008 && t.ip == 0x0202) = true ∧
    runs [0x3A, 0x01, 0x50] { base with sr := 0x8008 } (fun t => t.sr == 0x8008 && t.ip == 0x0150) = true := by decide

theorem test_call :
    runs [0x45, 0x02, 0x03] base (fun t => t.ssp == 0x03F7 && t.sr == 0x8000 && t.ip == 0x0202 && t.mem.read 0x03F8 == 0x01 && t.mem.read 0x03F9 == 0x03) = true ∧
    runs [0x46, 0x01, 0x50] base (fun t => t.ssp == 0x03F7 && t.sr == 0x8000 && t.ip == 0x0150 && t.mem.read 0x03F8 == 0x01 && t.mem.read 0x03F9 == 0x03) = true := by decide

theorem test_ret :
    runs [0x47] { base with mem := [(0x03FA, 0x01), (0x03FB, 0x50)] } (fun t => t.ssp == 0x03FB && t.sr == 0x8000 && t.ip == 0x0150) = true := by decide

theorem test_push :
    runs [0x3B, 0x02] base (fun t => t.ssp == 0x03F7 && t.sr == 0x8000 && t.ip == 0x0102 && t.mem.read 0x03F8 == 0x00 && t.mem.read 0x03F9 == 0x03) = true ∧
    runs [0x3C, 0x02, 0x03] { base with mem := [(0x0203, 0x05)] } (fun t => t.ssp == 0x03F7 && t.sr == 0x8000 && t.ip == 0x0103 && t.mem.read 0x03F8 == 0x00 && t.mem.read 0x03F9 == 0x05) = true ∧
    runs [0x3D, 0x02, 0x04] { base with mem := [(0x0205, 0x07)] } (fun t => t.ssp == 0x03F7 && t.sr == 0x8000 && t.ip == 0x0103 && t.mem.read 0x03F8 == 0x00 && t.mem.read 0x03F9 == 0x07) = true ∧
    runs [0x3E, 0x00, 0x09] base (fun t => t.ssp == 0x03F7 && t.sr == 0x8000 && t.ip == 0x0103 && t.mem.read 0x03F8 == 0x00 && t.mem.read 0x03F9 == 0x09) = true := by decide

theorem test_pushb :
    runs [0x3F, 0x0E] base (fun t => t.ssp == 0x03F8 && t.sr == 0x8000 && t.ip == 0x0102 && t.mem.read 0x03F9 == 0x03) = true ∧
    runs [0x40, 0x03, 0x03] { base with mem := [(0x0203, 0x05)] } (fun t => t.ssp == 0x03F8 && t.sr == 0x8000 && t.ip == 0x0103 && t.mem.read 0x03F9 == 0x05) = true ∧
    runs [0x41, 0x02, 0x05] { base with mem := [(0x0205, 0x07)] } (fun t => t.ssp == 0x03F8 && t.sr == 0x8000 && t.ip == 0x0103 && t.mem.read 0x03F9 == 0x07) = true ∧
    runs [0x42, 0x09] base (fun t => t.ssp == 0x03F8 && t.sr == 0x8000 && t.ip == 0x0102 && t.mem.read 0x03F9 == 0x09) = true := by decide

theorem test_pop :
    runs [0x43, 0x00] { base with mem := [(0x03FA, 0x01), (0x03FB, 0x50)] } (fun t => t.a == 0x0150 && t.ssp == 0x03FB && t.sr == 0x8000 && t.ip == 0x0102) = true := by decide

theorem test_popb :
    runs [0x44, 0x0A] { base with mem := [(0x03FA, 0x01)] } (fun t => t.a == 0x1201 && t.ssp == 0x03FA && t.sr == 0x8000 && t.ip == 0x0102) = true := by decide

theorem test_hlt :
    runs [0x00] base (fun t => t.sr == 0x8001 && t.ip == 0x0101) = true := by decide

theorem test_cli :
    runs [0x82] base (fun t => t.sr == 0x8000 && t.ip == 0x0101) = true := by decide

theorem test_sti :
    runs [0x83] base (fun t => t.sr == 0x8010 && t.ip == 0x0101) = true := by decide

theorem test_iret :
    runs [0x84] { base with mem := [(0x03FA, 0x01), (0x03FB, 0x50), (0x03FC, 0x02), (0x03FD, 0xF0), (0x03FF, 0x10)] } (fun t => t.usp == 0x02F0 && t.ssp == 0x03FF && t.sr == 0x0010 && t.ip == 0x0150) = true := by decide

theorem test_svc :
    runs [0x85] { base with ssp := 0x03FF, sr := 0x0010 } (fun t => t.ssp == 0x03F9 && t.sr == 0x8010 && t.ip == 0x0006 && t.mem.read 0x03FA == 0x01 && t.mem.read 0x03FB == 0x01 && t.mem.read 0x03FC == 0x02 && t.mem.read 0x03FD == 0xFF && t.mem.read 0x03FE == 0x00 && t.mem.read 0x03FF == 0x10) = true := by decide

theorem test_in :
    runs [0x86, 0x02] { base with c := 0x0001, icMask := 0x0002, icStatus := 0x0001 } (fun t => t.a == 0x0001 && t.sr == 0x8000 && t.ip == 0x0102) = true ∧
    runs [0x87, 0x02, 0x03] { base with icMask := 0x0002, icStatus := 0x0001, mem := [] } (fun t => t.a == 0x0002 && t.sr == 0x8000 && t.ip == 0x0103) = true ∧
    runs [0x88, 0x02, 0x04] { base with icMask := 0x0002, icStatus := 0x0001, mem := [(0x0205, 0x01)] } (fun t => t.a == 0x0001 && t.sr == 0x8000 && t.ip == 0x0103) = true ∧
    runs [0x89, 0x00, 0x00] { base with icMask := 0x0002, icStatus := 0x0001 } (fun t => t.a == 0x0002 && t.sr == 0x8000 && t.ip == 0x0103) = true := by decide

theorem test_out :
    runs [0x8A, 0x02] { base with a := 0x0002, icStatus := 0x0003 } (fun t => t.tmrState == .running && t.tmrPreload == 0x0002 && t.tmrCounter == 0x0002 && t.sr == 0x8000 && t.ip == 0x0102) = true ∧
    runs [0x8B, 0x02, 0x03] { base with a := 0x0002, icStatus := 0x0003, mem := [(0x0203, 0x02)] } (fun t => t.icStatus == 0x0001 && t.icEoi == 0x0002 && t.sr == 0x8000 && t.ip == 0x0103) = true ∧
    runs [0x8C, 0x02, 0x04] { base with a := 0x0002, icStatus := 0x0003, mem := [] } (fun t => t.icMask == 0x0002 && t.sr == 0x8000 && t.ip == 0x0103) = true ∧
    runs [0x8D, 0x00, 0x00] { base with a := 0x0002, icStatus := 0x0003 } (fun t => t.icMask == 0x0002 && t.sr == 0x8000 && t.ip == 0x0103) = true := by decide

/-! ### Witnesses: for each statement with hypotheses, a state and operands that meet them, at the edges of each clause -/

/-- The base state in user mode. -/
def user : State := { base with sr := 0x0000, ssp := 0x03FF }

/-- The base state with 0x0200 to 0x02FF read-only and two further I/O registers, one of each permission. -/
def rom : State :=
  { base with
    cfg := { Config.standard with regions := [⟨0x0200, 0x02FF, .ro⟩], extIo := [⟨0x0010, .rw, 7⟩, ⟨0x0011, .ro, 9⟩] }
    extIo := [(0x0010, 7), (0x0011, 9)] }

/-- The base state with interrupts accepted, line 3 enabled, asserted and pending, and the timer running. -/
def busy : State :=
  { base with
    sr := 0x8010
    icMask := 0x0008
    icStatus := 0x0008
    icLevel := 0x0008
    tmrState := .running
    tmrPreload := 2
    tmrCounter := 2 }

theorem witness_DecodeOfEncodeIsTheInstruction :
    basesLegal (.movRaW ⟨0x80, 4⟩ 0xFFFF) = true ∧ basesLegal (.movR16R16 0xFF 0xFF) = true := by decide

theorem witness_EncodeOfDecodeIsTheBytes : decode [0x08, 0x80, 0x04, 0xFF, 0xFF, 0x00] = .ok (.movRaW ⟨0x80, 4⟩ 0xFFFF, [0x00]) := rfl

theorem witness_DecodeRefusals :
    (decode [0x8E, 0x00] = .error .unknownOpcode ∧ 142 ≤ (0x8E : Byte).toNat) ∧
      (basesLegal (.movRaW ⟨0, 4⟩ 0) = true ∧ 0 < (encode (.movRaW ⟨0, 4⟩ 0)).length ∧ 4 < (encode (.movRaW ⟨0, 4⟩ 0)).length) ∧
      (basesLegal (.movRaW ⟨0, 5⟩ 0) = false ∧ bytesRead (.movRaW ⟨0, 5⟩ 0) = 3 ∧ 2 < bytesRead (.movRaW ⟨0, 5⟩ 0) ∧
        bytesRead (.movR16Ra 0 ⟨0, 5⟩) = 4) := ⟨⟨rfl, by decide⟩, by decide, by decide⟩

/-- 30_encoding R124: the illegal base of `08 00 05` is raised before the immediate is fetched, and `05 07` fails in the fetch of the base. -/
theorem test_decode_illegal_base_first :
    refused [0x08, 0x00, 0x05] .illegalBase = true ∧ refused [0x05, 0x07] .fetch = true ∧ refused [0x05, 0x07, 0x09] .illegalBase = true := by decide

theorem witness_StepRunsTheDecodedInstruction :
    ∃ t, base.faulted = false ∧ base.halted = false ∧ decode (fetchWindow base) = .ok (.hlt, [0, 0, 0, 0]) ∧ exec .hlt base = .next t :=
  ⟨_, by decide, by decide, rfl, rfl⟩

/-- The last instruction that fits: it ends at the last byte of memory. -/
theorem witness_StepRunsTheInstructionInMemory :
    let s := pokeAll [0x06, 0x00, 0x12, 0x34] 1020 { base with ip := 1020 }
    s.faulted = false ∧ s.halted = false ∧ basesLegal (.movR16W 0 0x1234) = true ∧
      s.ip.toNat + (encode (.movR16W 0 0x1234)).length = s.cfg.memSize ∧
      ∀ (k : Nat) (h : k < (encode (.movR16W 0 0x1234)).length), s.mem.read (s.ip.toNat + k) = (encode (.movR16W 0 0x1234))[k] := by
  decide

theorem witness_StepWhenNotRunning :
    State.faulted { base with sr := 0x8003 } = true ∧ State.faulted { base with sr := 0x8001 } = false ∧
      State.halted { base with sr := 0x8001 } = true := by decide

theorem witness_StepNeverSticks : base.faulted = false := by decide

/-- IP at the first address outside memory; the lowest unknown opcode at the last address; the lowest illegal base; an instruction whose last
byte is outside memory. -/
theorem witness_FetchAndDecodeExceptions :
    let outside := { base with ip := 1024 }
    let unknown := pokeAll [0x8E] 1023 { base with ip := 1023 }
    let bad := pokeAll [0x08, 0x00, 0x05] 1021 { base with ip := 1021 }
    let badCut := pokeAll [0x08, 0x00] 1022 { base with ip := 1022 }
    let cut := pokeAll [0x06, 0x00, 0x12] 1021 { base with ip := 1021 }
    (outside.faulted = false ∧ outside.halted = false ∧ outside.cfg.memSize ≤ outside.ip.toNat) ∧
      (unknown.ip.toNat < unknown.cfg.memSize ∧ 142 ≤ (unknown.mem.read unknown.ip.toNat).toNat) ∧
      (basesLegal (.movRaW ⟨0, 5⟩ 0x1234) = false ∧ bad.ip.toNat + bytesRead (.movRaW ⟨0, 5⟩ 0x1234) = bad.cfg.memSize ∧
        ∀ (k : Nat) (h : k < (encode (.movRaW ⟨0, 5⟩ 0x1234)).length), k < bytesRead (.movRaW ⟨0, 5⟩ 0x1234) →
          bad.mem.read (bad.ip.toNat + k) = (encode (.movRaW ⟨0, 5⟩ 0x1234))[k]) ∧
      (badCut.ip.toNat < badCut.cfg.memSize ∧ badCut.cfg.memSize < badCut.ip.toNat + bytesRead (.movRaW ⟨0, 5⟩ 0x1234) ∧
        ∀ (k : Nat) (h : k < (encode (.movRaW ⟨0, 5⟩ 0x1234)).length), badCut.ip.toNat + k < badCut.cfg.memSize →
          badCut.mem.read (badCut.ip.toNat + k) = (encode (.movRaW ⟨0, 5⟩ 0x1234))[k]) ∧
      (basesLegal (.movR16W 0 0x1234) = true ∧ cut.ip.toNat < cut.cfg.memSize ∧
        cut.cfg.memSize < cut.ip.toNat + (encode (.movR16W 0 0x1234)).length ∧
        ∀ (k : Nat) (h : k < (encode (.movR16W 0 0x1234)).length), cut.ip.toNat + k < cut.cfg.memSize →
          cut.mem.read (cut.ip.toNat + k) = (encode (.movR16W 0 0x1234))[k]) := by decide

theorem witness_HalfRegistersAreBytesOfTheirParent : isReg8 9 = true ∧ isReg8 16 = true := by decide

theorem witness_RegisterReadAfterWrite : isReg16 0 = true ∧ isReg16 4 = true := by decide

/-- The highest word of memory. -/
theorem witness_WordReadAfterWordWrite : ∃ t, memWrite16 base 1022 0x1234 = .ok t := ⟨_, rfl⟩

/-- The address -2; the last word, the last byte, the first address outside, and the word that starts at the last byte. -/
theorem witness_SourceOperandValues :
    (MemOperand.indexed ⟨0xFE, 0⟩).address { base with a := 0 } = .ok (-2) ∧ (MemOperand.direct 1022).address base = .ok 1022 ∧
      Readable base 1022 2 ∧ Readable base 1023 1 ∧ base.inBounds 1024 = false ∧ base.inBounds (-2) = false ∧
      base.inBounds 1023 = true ∧ base.inBounds (1023 + 1) = false := by
  refine ⟨rfl, rfl, ?_⟩
  unfold Readable
  decide

theorem witness_MovToRegisterCompletes :
    isReg16 4 = true ∧ (Src16.mem (.direct 1022)).value base = .ok 0 ∧ isReg8 16 = true ∧ (Src8.mem (.indexed ⟨0x7F, 2⟩)).value base = .ok 0 :=
  ⟨rfl, rfl, rfl, rfl⟩

theorem witness_MovToMemoryCompletes :
    (MemOperand.direct 1022).address base = .ok 1022 ∧ Writable base 1022 2 ∧ (MemOperand.direct 1023).address base = .ok 1023 ∧
      Writable base 1023 1 ∧ (MemOperand.indexed ⟨0xFF, 3⟩).address rom = .ok 0x01FF ∧ Writable rom 0x01FF 1 ∧
      isReg16 4 = true ∧ isReg8 9 = true := by
  refine ⟨rfl, ?_, rfl, ?_, rfl, ?_, by decide⟩ <;> unfold Writable <;> decide

/-- For AddCompletes, SubCompletes, CompareCompletes, BitwiseCompletes and ShiftCompletes: a destination and each form of source. -/
theorem witness_AddCompletes :
    isReg16 4 = true ∧ (Src16.reg 4).value base = .ok 0x03F9 ∧ (Src16.imm 0xFFFF).value base = .ok 0xFFFF ∧
      (Src16.mem (.direct 0)).value base = .ok 0 ∧ isReg8 16 = true ∧ (Src8.reg 9).value base = .ok 0x12 ∧
      (Src8.imm 0xFF).value base = .ok 0xFF := ⟨rfl, rfl, rfl, rfl, rfl, rfl, rfl⟩

theorem witness_SubCompletes : isReg16 0 = true ∧ (Src16.reg 0).value base = .ok 0x1234 ∧ isReg8 9 = true ∧ (Src8.reg 9).value base = .ok 0x12 :=
  ⟨rfl, rfl, rfl, rfl⟩

theorem witness_CompareCompletes :
    isReg16 1 = true ∧ (Src16.imm 0x00F1).value base = .ok 0x00F1 ∧ isReg8 12 = true ∧ (Src8.imm 0xF0).value base = .ok 0xF0 :=
  ⟨rfl, rfl, rfl, rfl⟩

theorem witness_UnaryCompletes : isReg16 4 = true ∧ isReg8 9 = true := by decide

theorem witness_MulCompletes : (Src16.reg 1).value base = .ok 0x00F0 ∧ (Src8.imm 0).value base = .ok 0 := ⟨rfl, rfl⟩

theorem witness_DivCompletes :
    (Src16.imm 1).value base = .ok 1 ∧ (1 : Word) ≠ 0 ∧ (Src8.imm 0xFF).value base = .ok 0xFF ∧ (0xFF : Byte) ≠ 0 :=
  ⟨rfl, by decide, rfl, by decide⟩

theorem witness_DivideByZeroRaises : (Src16.mem (.direct 0)).value base = .ok 0 ∧ (Src8.imm 0).value base = .ok 0 := ⟨rfl, rfl⟩

theorem witness_BitwiseCompletes : isReg16 3 = true ∧ (Src16.imm 0).value base = .ok 0 ∧ isReg8 15 = true ∧ (Src8.imm 0x80).value base = .ok 0x80 :=
  ⟨rfl, rfl, rfl, rfl⟩

/-- The counts at the width and at the largest value. -/
theorem witness_ShiftCompletes :
    isReg16 0 = true ∧ (Src16.imm 16).value base = .ok 16 ∧ (Src16.imm 0xFFFF).value base = .ok 0xFFFF ∧ isReg8 10 = true ∧
      (Src8.imm 8).value base = .ok 8 := ⟨rfl, rfl, rfl, rfl, rfl⟩

theorem witness_JumpCompletes : isReg16 0 = true ∧ isReg16 4 = true := by decide

/-- The lowest SP a word push can use, and the highest a word pop can. -/
theorem witness_CallAndRetComplete :
    (Target.absolute 0x0150).resolve base = .ok 0x0150 ∧ (Target.indexed ⟨0xFF, 2⟩).resolve base = .ok 0x0002 ∧
      Writable { base with ssp := 1 } ((State.sp { base with ssp := 1 }).toNat - 1) 2 ∧
      Readable { base with ssp := 1021 } ((State.sp { base with ssp := 1021 }).toNat + 1) 2 := by
  refine ⟨rfl, rfl, ?_, ?_⟩
  · unfold Writable; decide
  · unfold Readable; decide

theorem witness_PushCompletes :
    (Src16.reg 4).value user = .ok 0x02FF ∧ Writable user ((user.sp.toNat : Int) - 1) 2 ∧ (Src8.imm 7).value base = .ok 7 ∧
      Writable { base with ssp := 0 } ((State.sp { base with ssp := 0 }).toNat : Int) 1 := by
  refine ⟨rfl, ?_, rfl, ?_⟩ <;> unfold Writable <;> decide

theorem witness_PopCompletes :
    isReg16 4 = true ∧ Readable { base with ssp := 1021 } ((State.sp { base with ssp := 1021 }).toNat + 1) 2 ∧ isReg8 9 = true ∧
      Readable { base with ssp := 1022 } ((State.sp { base with ssp := 1022 }).toNat + 1) 1 := by
  unfold Readable
  decide

theorem witness_HltCliStiComplete : base.supervisor = true := by decide

/-- The highest SSP from which three words can be popped. -/
theorem witness_IretRestores :
    State.supervisor { base with ssp := 1017 } = true ∧ base.cfg.memSize ≤ 65536 ∧
      (State.ssp { base with ssp := 1017 }).toNat + 6 < base.cfg.memSize := by decide

/-- A frame that ends at the lowest byte of memory, and one that starts at the highest. -/
theorem witness_SvcEnters : user.supervisor = false ∧ FrameFits { user with ssp := 5 } 3 ∧ FrameFits { user with ssp := 1023 } 3 := by
  unfold FrameFits Writable
  decide

theorem witness_InReadsTheDevice :
    rom.supervisor = true ∧ (Src16.imm 0x0011).value rom = .ok 0x0011 ∧ ioRead rom 0x0011 = some 9 ∧ ioRead rom 0 = some 0 := by
  refine ⟨by decide, rfl, by decide, by decide⟩

theorem witness_OutWritesTheDevice :
    rom.cfg.wf = true ∧ rom.supervisor = true ∧ (Src16.imm 0).value rom = .ok 0 ∧ (Src16.imm 2).value rom = .ok 2 ∧
      (Src16.imm 3).value rom = .ok rom.cfg.ioTmrPreload ∧ (Src16.imm 0x0010).value rom = .ok 0x0010 ∧
      ⟨0x0010, .rw, 7⟩ ∈ rom.cfg.extIo ∧ 0x0010 ∈ rom.extIo.map Prod.fst := by
  refine ⟨by decide, by decide, rfl, rfl, rfl, rfl, by decide, by decide⟩

theorem witness_IoSpace :
    rom.cfg.wf = true ∧ ⟨0x0010, .rw, 7⟩ ∈ rom.cfg.extIo ∧ extLookup rom.extIo 0x0010 = some 7 ∧ rom.supervisor = true ∧
      (Src16.imm 5).value rom = .ok 5 ∧ 5 ∉ rom.cfg.ioAddresses ∧ (Src16.imm 1).value rom = .ok 1 ∧
      (Src16.imm 4).value rom = .ok rom.cfg.ioTmrCounter ∧ ⟨0x0011, .ro, 9⟩ ∈ rom.cfg.extIo := by
  refine ⟨by decide, by decide, by decide, by decide, rfl, by decide, rfl, rfl, by decide⟩

theorem witness_IllegalRegisterBytesRaise :
    Instr.wf (.incR16 5) = false ∧ Instr.wf (.incbR8 8) = false ∧ Instr.wf (.popbR8 17) = false ∧ Instr.wf (.callRa ⟨0, 5⟩) = false := by decide

theorem witness_PrivilegeChecks :
    privileged .cli = true ∧ privileged .iret = true ∧ privileged (.outW 0) = true ∧ user.supervisor = false ∧ base.supervisor = true := by decide

theorem witness_FailingSourceRaises :
    (Src16.mem (.direct 1023)).value base = .error (.memoryAccess 1024) ∧ (Src16.reg 5).value base = .error .illegalInstruction ∧
      isReg16 0 = true ∧ base.supervisor = true ∧ (Src8.mem (.direct 1024)).value base = .error (.memoryAccess 1024) ∧ isReg8 9 = true :=
  ⟨rfl, rfl, rfl, by decide, rfl, rfl⟩

/-- The first read-only byte, the word whose second byte is read-only, and the word whose second byte is outside memory. -/
theorem witness_FailingStoreRaises :
    (MemOperand.direct 0x0200).address rom = .ok 0x0200 ∧ ¬ Writable rom 0x0200 1 ∧ (MemOperand.direct 0x01FF).address rom = .ok 0x01FF ∧
      Writable rom 0x01FF 1 ∧ ¬ Writable rom (0x01FF + 1) 1 ∧ Writable rom 1023 1 ∧ ¬ Writable rom (1023 + 1) 1 := by
  refine ⟨rfl, ?_, rfl, ?_⟩ <;> unfold Writable <;> decide

theorem witness_FailingStackAccessRaises :
    let low := { base with ssp := 0 }
    let high := { base with ssp := 1024 }
    let top := { base with ssp := 1018 }
    let last := { base with ssp := 1023 }
    ¬ Writable low ((low.sp.toNat : Int) - 1) 2 ∧ (Src16.imm 0).value low = .ok 0 ∧ (Target.absolute 0).resolve low = .ok 0 ∧
      ¬ Writable high (high.sp.toNat : Int) 1 ∧ (Src8.imm 0).value high = .ok 0 ∧ ¬ Readable last ((last.sp.toNat : Int) + 1) 2 ∧
      (top.supervisor = true ∧ top.cfg.memSize ≤ 65536 ∧ top.cfg.memSize ≤ top.ssp.toNat + 6) ∧
      ¬ Readable last ((last.sp.toNat : Int) + 1) 1 := by
  refine ⟨?_, rfl, rfl, ?_, rfl, ?_, by decide, ?_⟩
  · unfold Writable; decide
  · unfold Writable; decide
  · unfold Readable; decide
  · unfold Readable; decide

theorem witness_SupervisorExceptionIsFatalAndPrecise :
    (∃ t, base.supervisor = true ∧ base.faulted = false ∧ base.halted = false ∧ fetchDecode (pokeAll [0x85] 0x0100 base) = .ok .svc ∧
        exec .svc (pokeAll [0x85] 0x0100 base) = .next t ∧ t.stepError = some .illegalInstruction) ∧
      fetchDecode { base with ip := 1024 } = .error .instructionFetch :=
  ⟨⟨_, by decide, by decide, by decide, rfl, rfl, by decide⟩, rfl⟩

theorem witness_ExceptionFrame :
    user.supervisor = false ∧ FrameFits { user with ssp := 9 } 5 ∧ FrameFits { user with ssp := 7 } 4 ∧ FrameFits { user with ssp := 1023 } 5 := by
  unfold FrameFits Writable
  decide

/-- The highest SSP at which each frame does not fit. -/
theorem witness_UnbuildableFrameIsFatal :
    user.supervisor = false ∧ ¬ FrameFits { user with ssp := 8 } 5 ∧ ¬ FrameFits { user with ssp := 6 } 4 ∧ ¬ FrameFits { user with ssp := 4 } 3 ∧
      busy.faulted = false ∧ busy.irqIn = true ∧ busy.irqEnabled = true ∧ ¬ FrameFits { busy with ssp := 1024 } 3 := by
  unfold FrameFits Writable
  decide

/-- The premises of each clause: the check, a halted step, a step that completes, one that traps, and a line call at the last line. -/
theorem witness_InterruptRecognition :
    ((base.faulted = false ∧ State.halted { base with sr := 0x8001 } = true ∧ State.faulted { base with sr := 0x8001 } = false) ∧
      (base.halted = false ∧ (∃ t, fetchDecode base = .ok .hlt ∧ exec .hlt base = .next t ∧ t.faulted = false)) ∧
      (∃ e, fetchDecode { user with ip := 1024 } = .error e ∧ (takeException e { user with ip := 1024 }).faulted = false) ∧ 15 < 16) ∧
    (base.icStatus &&& base.icMask = 0 ∧ base.irqEnabled = false ∧ State.faulted { busy with sr := 0x8012 } = true) ∧
      busy.faulted = false ∧ busy.icStatus &&& busy.icMask ≠ 0 ∧ busy.irqEnabled = true ∧ FrameFits busy 3 ∧
      FrameFits { busy with ssp := 5 } 3 := by
  refine ⟨⟨by decide, ⟨by decide, _, rfl, rfl, by decide⟩, ⟨.instructionFetch, rfl, by decide⟩, by decide⟩, ?_⟩
  unfold FrameFits Writable
  decide

theorem witness_EntriesReportNoError :
    user.supervisor = false ∧ FrameFits user 3 ∧ FrameFits { user with ssp := 9 } 5 ∧ FrameFits { user with ssp := 7 } 4 ∧ busy.faulted = false ∧
      busy.icStatus &&& busy.icMask ≠ 0 ∧ busy.irqEnabled = true ∧ FrameFits busy 3 := by
  unfold FrameFits Writable
  decide

theorem witness_TimerTick :
    base.tmrState = .reset ∧ State.tmrState { base with tmrState := .preloaded } = .preloaded ∧
      (busy.tmrState = .running ∧ State.tmrCounter { busy with tmrCounter := 1 } = 1) ∧ busy.tmrCounter ≠ 1 ∧
      State.tmrState { busy with tmrState := .depleted, tmrCounter := 0 } = .depleted := by decide

theorem witness_TimerPeriod :
    busy.tmrState = .running ∧ busy.tmrCounter = busy.tmrPreload ∧ busy.tmrPreload ≠ 0 ∧
      State.tmrPreload { busy with tmrPreload := 1, tmrCounter := 1 } ≠ 0 := by decide

theorem witness_StepKeepsTheInvariant : busy.Inv ∧ ∃ t, step busy = .next t :=
  ⟨⟨by decide, by decide, by decide, by decide, by decide, by decide, by decide, by decide⟩, _, rfl⟩

theorem witness_HostCallsKeepTheInvariant : rom.Inv :=
  ⟨by decide, by decide, by decide, by decide, by decide, by decide, by decide, by decide⟩

theorem witness_StepKeepsReadOnlyMemory :
    (∃ t, step rom = .next t) ∧ Config.permAt rom.cfg 0x0200 = .ro ∧ Config.permAt rom.cfg 0x02FF = .ro ∧ Config.permAt rom.cfg 0x0300 = .rw :=
  ⟨⟨_, rfl⟩, by decide, by decide, by decide⟩

/-- IRET to user mode, and SVC out of it. -/
theorem witness_ModeChangesOnlyByTrapAndIret :
    (runs [0x84] { base with ssp := 0x0300 } (fun t => !t.supervisor) = true ∧ base.supervisor = true) ∧
      runs [0x85] user (fun t => t.supervisor) = true ∧ user.supervisor = false := by decide

theorem witness_StackPointersAreIndependent :
    (∃ t, exec .hlt base = .next t ∧ base.supervisor = true) ∧ (∃ t, exec .hlt user = .next t ∧ user.supervisor = false ∧ t.supervisor = false) ∧
      (∃ t, exec .cli user = .next t ∧ user.supervisor = false ∧ t.supervisor = true) ∧ Instr.hlt ≠ .iret :=
  ⟨⟨_, rfl, by decide⟩, ⟨_, rfl, by decide, by decide⟩, ⟨_, rfl, by decide, by decide⟩, by decide⟩

theorem witness_FlagsAreWrittenByTheAluAndIret :
    (∃ t, exec .ret base = .next t) ∧ writesFlags .ret = false ∧ Instr.ret ≠ .iret ∧ exec .cli user = .next (takeException .illegalInstruction user) ∧
      writesFlags (.addR16W 0 0) = true ∧ writesFlags (.shrbR8B 9 0) = true ∧ writesFlags (.pushR16 0) = false :=
  ⟨⟨_, rfl⟩, by decide, by decide, rfl, by decide, by decide, by decide⟩

theorem witness_UserInstructionsDoNotTouchDevices : user.supervisor = false := by decide

/-- Halted with interrupts not accepted, and halted with only a line that cannot become pending enabled. -/
theorem witness_EndedRunStaysEnded :
    (State.Inv { base with sr := 0x8001 } ∧ State.faulted { base with sr := 0x8001 } = false ∧ State.endedNormally { base with sr := 0x8001 } = true) ∧
      State.endedNormally { base with sr := 0x8011, icMask := 0x0002 } = true ∧
      State.endedNormally { base with sr := 0x8011, icMask := 0x0002, tmrState := .running } = false :=
  ⟨⟨⟨by decide, by decide, by decide, by decide, by decide, by decide, by decide, by decide⟩, by decide, by decide⟩, by decide, by decide⟩

theorem witness_ResetValues : rom.cfg.wf = true ∧ ⟨0x0011, .ro, 9⟩ ∈ rom.cfg.extIo := by decide

theorem witness_LineCalls :
    State.faulted { base with sr := 0x8002 } = true ∧ 16 ≤ 16 ∧ base.faulted = false ∧ base.stepError = none ∧ 15 < 16 := by decide

/-- The longest image that fits, and the shortest that does not. -/
theorem witness_LoadImageWrites :
    let small := powerOn { Config.standard with memSize := 12 }
    small.cfg.memSize < (List.replicate 13 (0xAA : Byte)).length ∧ (List.replicate 12 (0xAA : Byte)).length ≤ small.cfg.memSize := by decide

theorem witness_AssemblerEmitsTheEncoding : ∃ row, findRow (Instr.opcode (.movR16W 0 5)) registry = some row := ⟨_, rfl⟩

end Sys2Proof.Tests
end

section
/-! PROOFS. The register file and reset (10_state): the frames of a register write, the value of each `EXT_IO` register at
power-on, and the statements O10, O11 and O57. -/

namespace Sys2Proof.Machine

/-! ### The frame of a register write -/

/-- A write of a 16-bit register touches no part of a device. -/
theorem sameDevices_setReg16 (s : State) (d : RegIdx) (v : Word) : SameDevices s (s.setReg16 d v) := by
  simp [SameDevices]

/-- A write of a half-register touches no part of a device. -/
theorem sameDevices_setReg8 (s : State) (q : RegIdx) (v : Byte) : SameDevices s (s.setReg8 q v) := by
  simp [SameDevices]

/-- Of A, B, C, D and SP a write changes the register it names alone, and not the other stack pointer (10_state R36, R39). -/
theorem only16_setReg16 (s : State) (d : RegIdx) (v : Word) (hd : isReg16 d = true) : Only16 [d] s (s.setReg16 d v) :=
  ⟨fun q hq hne => reg16_setReg16_other s d q v hd hq (List.ne_of_not_mem_cons hne), otherSp_setReg16 s d v hd⟩

/-- Of the half-registers a write changes the one it names alone, its sibling in the same parent included (10_state R32, R39). -/
theorem only8_setReg8 (s : State) (q : RegIdx) (v : Byte) (hq : isReg8 q = true) : Only8 [q] s (s.setReg8 q v) :=
  ⟨fun j hj hne => reg8_setReg8_other s q j v hq hj (List.ne_of_not_mem_cons hne), by simp, by simp⟩

/-! ### The `EXT_IO` registers at power-on -/

/-- `allPairs` is the library's `Pairwise`. -/
theorem allPairs_iff_pairwise {α : Type} (p : α → α → Bool) (l : List α) :
    allPairs p l = true ↔ l.Pairwise (fun x y => p x y = true) := by
  induction l with
  | nil => simp [allPairs]
  | cons x xs ih => simp [allPairs, ih]

/-- Valid parameters declare no I/O address twice (60_exceptions R497). -/
theorem Config.ioAddresses_nodup {c : Config} (h : c.wf = true) : c.ioAddresses.Nodup := by
  simp only [Config.wf, Bool.and_eq_true] at h
  obtain ⟨_, hpairs⟩ := h
  simpa [List.Nodup] using (allPairs_iff_pairwise _ _).mp hpairs

/-- Under valid parameters no two `EXT_IO` registers share an address. -/
theorem Config.extIo_addr_nodup {c : Config} (h : c.wf = true) : (c.extIo.map ExtIoReg.addr).Nodup :=
  (Config.ioAddresses_nodup h).of_append_right

/-- Where no address stands twice, a lookup finds the value listed with the address. -/
theorem extLookup_of_mem {l : List (Word × Word)} {x v : Word} (hl : (l.map Prod.fst).Nodup) (h : (x, v) ∈ l) :
    extLookup l x = some v := by
  induction l with
  | nil => cases h
  | cons e l ih =>
    obtain ⟨k, w⟩ := e
    obtain ⟨hk, hl⟩ := List.nodup_cons.mp hl
    rcases List.mem_cons.mp h with heq | htail
    · obtain ⟨rfl, rfl⟩ := Prod.mk.inj heq
      simp [extLookup]
    · have hne : k ≠ x := fun hkx => hk (List.mem_map.mpr ⟨(x, v), htail, hkx.symm⟩)
      simp [extLookup, hne, ih hl htail]

/-- At power-on each declared `EXT_IO` register holds its configured reset value (10_state R61). -/
theorem extLookup_powerOn {c : Config} (h : c.wf = true) {r : ExtIoReg} (hr : r ∈ c.extIo) :
    extLookup (powerOn c).extIo r.addr = some r.resetValue := by
  have hkeys : ((powerOn c).extIo.map Prod.fst) = c.extIo.map ExtIoReg.addr := by
    simp [powerOn, Function.comp_def]
  exact extLookup_of_mem (hkeys ▸ Config.extIo_addr_nodup h) (List.mem_map_of_mem hr)

/-! ### The obligations -/

/-- Settles O10: the eight reads are the model's cases, the write's effect is `reg8_setReg8_same` and its frame `only8_setReg8`. -/
theorem halfRegistersAreBytesOfTheirParent : Obligations.HalfRegistersAreBytesOfTheirParent := by
  intro s v
  refine ⟨⟨rfl, rfl, rfl, rfl⟩, ⟨rfl, rfl, rfl, rfl⟩, fun q hq => ?_⟩
  exact ⟨reg8_setReg8_same s q v hq, only8_setReg8 s q v hq, State.setReg8_sr s q v, State.setReg8_ip s q v,
    State.setReg8_mem s q v, sameDevices_setReg8 s q v⟩

/-- Settles O11: the write's effect is `reg16_setReg16_same` and its frame `only16_setReg16`; the rest is what `reg16` and `setReg16` say of
the indices 0 to 4. -/
theorem registerReadAfterWrite : Obligations.RegisterReadAfterWrite := by
  intro s v
  refine ⟨fun d hd => ?_, ⟨rfl, rfl, rfl, rfl, rfl⟩, rfl⟩
  exact ⟨reg16_setReg16_same s d v hd, only16_setReg16 s d v hd, State.setReg16_sr s d v, State.setReg16_ip s d v,
    State.setReg16_mem s d v, sameDevices_setReg16 s d v⟩

/-- Settles O57: `reset()` is `powerOn` under the same parameters, which states every value outright but those of the `EXT_IO` registers:
`extLookup_powerOn` finds them, the declared addresses being distinct. -/
theorem resetValues : Obligations.ResetValues := by
  intro s
  refine ⟨rfl, rfl, rfl, rfl, rfl, rfl, rfl, rfl, rfl, fun _ => rfl, rfl, rfl, rfl, rfl, rfl, rfl, rfl, ?_⟩
  exact fun hwf r hr => extLookup_powerOn hwf hr

end Sys2Proof.Machine
end

section
/-! PROOFS. Memory reads and writes (20_memory): the equation of each read, what the checks of a write answer in each case, and the
statement O12. -/

namespace Sys2Proof.Machine

/-! ### Reads -/

/-- The numeric form of a big-endian word: the high byte weighs 256 (20_memory R88). -/
theorem joinBytes_eq_ofNat (p q : Byte) : joinBytes p q = BitVec.ofNat 16 (p.toNat * 256 + q.toNat) := by
  rw [← joinBytes_toNat, BitVec.ofNat_toNat, BitVec.setWidth_eq]

/-- A byte read checks the bounds and nothing else (20_memory R84). -/
theorem memRead8_eq (s : State) (x : Int) :
    memRead8 s x = if 0 ≤ x ∧ x < (s.cfg.memSize : Int) then .ok (s.byteAt x) else .error (.outOfBounds x) := by
  simp only [memRead8, inBounds_iff]

/-- A word read checks the lower address first (20_memory R86). -/
theorem memRead16_eq (s : State) (x : Int) :
    memRead16 s x =
      if ¬ (0 ≤ x ∧ x < (s.cfg.memSize : Int)) then .error (.outOfBounds x)
      else if ¬ (0 ≤ x + 1 ∧ x + 1 < (s.cfg.memSize : Int)) then .error (.outOfBounds (x + 1))
      else .ok (BitVec.ofNat 16 ((s.byteAt x).toNat * 256 + (s.byteAt (x + 1)).toNat)) := by
  simp only [memRead16, inBounds_iff, joinBytes_eq_ofNat, ite_not]

/-! ### The checks of a write -/

/-- The error a write to one cell meets, `none` when it meets none: bounds before permission (20_memory R85). -/
def writeFailure (s : State) (x : Int) : Option MemError :=
  if 0 ≤ x ∧ x < (s.cfg.memSize : Int) then (if Config.permAt s.cfg x = .ro then some (.readOnly x) else none) else some (.outOfBounds x)

/-- The model's checks of one cell fail with exactly that error. -/
theorem checkWrite_error_iff {s : State} {x : Int} {e : MemError} : checkWrite s x = .error e ↔ writeFailure s x = some e := by
  simp only [checkWrite, writeFailure, inBounds_iff]
  split
  · split <;> simp
  · simp

/-- Where a cell meets no error, it is writable. -/
theorem writable_of_writeFailure_none {s : State} {x : Int} (h : writeFailure s x = none) : Writable s x 1 := by
  rcases checkWrite_cases s x with ⟨hw, -⟩ | ⟨-, e, he, -⟩
  · exact hw
  · rw [checkWrite_error_iff, h] at he
    cases he

/-! ### Writes that fail -/

/-- A byte write fails with the error of its cell (20_memory R85). -/
theorem memWrite8_of_writeFailure {s : State} {x : Int} {e : MemError} (v : Byte) (h : writeFailure s x = some e) :
    memWrite8 s x v = .error e := by
  simp only [memWrite8, checkWrite_error_iff.mpr h]
  rfl

/-- A word write fails with the error of the lower cell, whatever the other cell holds (20_memory R87). -/
theorem memWrite16_of_writeFailure_low {s : State} {x : Int} {e : MemError} (v : Word) (h : writeFailure s x = some e) :
    memWrite16 s x v = .error e := by
  simp only [memWrite16, checkWrite_error_iff.mpr h]
  rfl

/-- Where the lower cell is writable, a word write fails with the error of the other cell, and the answer holds no state with one byte
written (20_memory R87). -/
theorem memWrite16_of_writeFailure_high {s : State} {x : Int} {e : MemError} (v : Word) (h0 : Writable s x 1)
    (h1 : writeFailure s (x + 1) = some e) : memWrite16 s x v = .error e := by
  have hlow : checkWrite s x = .ok () := by simpa using checkWrite_of_writable h0 0 Nat.one_pos
  simp only [memWrite16, hlow, checkWrite_error_iff.mpr h1]
  rfl

/-! ### The obligation -/

/-- Settles O12: the reads are `memRead8_eq` and `memRead16_eq`; a write goes by the error its first cell meets, then its second, and one
that meets none has all its cells writable. -/
theorem memoryPrimitivesCheckThenAct : Obligations.MemoryPrimitivesCheckThenAct := by
  intro s x
  refine ⟨memRead8_eq s x, memRead16_eq s x, fun v => ?byteWrite, fun v => ?wordWrite, rfl, rfl⟩
  case byteWrite =>
    split
    · next _ e h => exact memWrite8_of_writeFailure v h
    · next h => exact memWrite8_of_writable v (writable_of_writeFailure_none h)
  case wordWrite =>
    split
    · next _ e h => exact memWrite16_of_writeFailure_low v h
    · next _ _ e h0 h1 => exact memWrite16_of_writeFailure_high v (writable_of_writeFailure_none h0) h1
    · next h0 h1 =>
      exact memWrite16_of_writable v
        (writable2_split.mpr ⟨writable_of_writeFailure_none h0, writable_of_writeFailure_none h1⟩)

end Sys2Proof.Machine
end

section
/-! PROOFS. Source operands (30_encoding): the equation of each form, what the memory forms raise at each failing address, and the
statement O14. -/

namespace Sys2Proof.Machine

/-! ### The class checks and the effective address -/

/-- An index outside the 16-bit class raises (30_encoding R126). -/
theorem requireReg16_error {i : RegIdx} (h : ¬ isReg16 i = true) : requireReg16 i = .error .illegalInstruction := if_neg h

/-- An index outside the half-register class raises (30_encoding R127). -/
theorem requireReg8_error {i : RegIdx} (h : ¬ isReg8 i = true) : requireReg8 i = .error .illegalInstruction := if_neg h

/-- The model's sign extension is the two's complement reading of the byte. -/
theorem sext8_eq_toInt (v : Byte) : sext8 v = v.toInt := by
  simp only [sext8, BitVec.toInt_eq_toNat_cond]
  split <;> split <;> omega

/-- `EA` checks the base register's class and nothing else: the sum is not wrapped and need not be in bounds (30_encoding R128). -/
theorem effectiveAddress_eq (s : State) (m : RegAddr) :
    effectiveAddress s m =
      if isReg16 m.base then .ok (((s.reg16 m.base).toNat : Int) + m.offset.toInt) else .error .illegalInstruction := by
  split
  · next hbase => rw [effectiveAddress_of_base s m hbase, sext8_eq_toInt]
  · next hbase =>
    simp only [effectiveAddress, requireReg16_error hbase]
    rfl

/-! ### The value of each form -/

/-- A 16-bit register source checks its class, then reads. -/
theorem Src16.value_reg (s : State) (r : RegIdx) :
    (Src16.reg r).value s = if isReg16 r then .ok (s.reg16 r) else .error .illegalInstruction := by
  split
  · next hr =>
    simp only [Src16.value, requireReg16_ok hr]
    rfl
  · next hr =>
    simp only [Src16.value, requireReg16_error hr]
    rfl

/-- A half-register source checks its class, then reads. -/
theorem Src8.value_reg (s : State) (r : RegIdx) :
    (Src8.reg r).value s = if isReg8 r then .ok (s.reg8 r) else .error .illegalInstruction := by
  split
  · next hr =>
    simp only [Src8.value, requireReg8_ok hr]
    rfl
  · next hr =>
    simp only [Src8.value, requireReg8_error hr]
    rfl

/-- A word source in memory whose operand has an address is the data read there. -/
theorem Src16.value_mem {s : State} {o : MemOperand} {x : Int} (h : o.address s = .ok x) :
    (Src16.mem o).value s = dataAccess (memRead16 s x) := by
  simp only [Src16.value, MemOperand.load16, h]
  rfl

/-- A byte source in memory whose operand has an address is the data read there. -/
theorem Src8.value_mem {s : State} {o : MemOperand} {x : Int} (h : o.address s = .ok x) :
    (Src8.mem o).value s = dataAccess (memRead8 s x) := by
  simp only [Src8.value, MemOperand.load8, h]
  rfl

/-! ### Reads that fail -/

/-- A byte read outside memory fails at its address (20_memory R84). -/
theorem memRead8_of_outOfBounds {s : State} {x : Int} (h : s.inBounds x = false) : memRead8 s x = .error (.outOfBounds x) := by
  simp [memRead8, h]

/-- A word read whose lower address is outside memory fails there, whatever the other address is (20_memory R86). -/
theorem memRead16_of_outOfBounds_low {s : State} {x : Int} (h : s.inBounds x = false) :
    memRead16 s x = .error (.outOfBounds x) := by
  simp [memRead16, h]

/-- A word read whose second address alone is outside memory fails at the second (20_memory R86). -/
theorem memRead16_of_outOfBounds_high {s : State} {x : Int} (h0 : s.inBounds x = true) (h1 : s.inBounds (x + 1) = false) :
    memRead16 s x = .error (.outOfBounds (x + 1)) := by
  simp [memRead16, h0, h1]

/-! ### The obligation -/

/-- Settles O14: the register, immediate and address clauses are the equations of the forms. A source in memory is the data read at its
address (`Src16.value_mem`, `Src8.value_mem`), and the last clauses are the cases of that read. -/
theorem sourceOperandValues : Obligations.SourceOperandValues := by
  refine ⟨fun s r => ⟨Src16.value_reg s r, Src8.value_reg s r⟩, fun _ _ _ => ⟨rfl, rfl⟩, fun _ _ => rfl, effectiveAddress_eq, ?memory⟩
  case memory =>
    intro s o x haddr
    rw [Src16.value_mem haddr, Src8.value_mem haddr]
    refine ⟨fun hread => ?word, fun hread => ?byte, fun hout => ⟨?wordOut, ?byteOut⟩, fun hin hout => ?wordHalfOut⟩
    case word => rw [memRead16_of_readable hread]; rfl
    case byte => rw [memRead8_of_readable hread]; rfl
    case wordOut => rw [memRead16_of_outOfBounds_low hout]; rfl
    case byteOut => rw [memRead8_of_outOfBounds hout]; rfl
    case wordHalfOut => rw [memRead16_of_outOfBounds_high hin hout]; rfl

end Sys2Proof.Machine
end

section
/-! PROOFS. Trap entries and the interrupt check (60_exceptions): what an entry whose frame fits leaves, when the check is made and what it
does, and the statements O32, O42 and O44. -/

namespace Sys2Proof.Machine

/-! ### SVC and exceptions: an entry whose frame fits -/

/-- In user mode SVC takes the system-call trap (46_system R385). -/
theorem supervisorCall_user {s : State} (huser : s.supervisor = false) : supervisorCall s = svcEntry s := by
  simp [supervisorCall, huser]

/-- An SVC entry whose frame fits (60_exceptions R488). -/
theorem svcEntry_of_fits {s : State} (hfits : FrameFits s 3) :
    Entered [s.sr, s.usp, s.ip + 1] syscallVector [15] s (svcEntry s) := by
  obtain ⟨t, htrap, hentered, -⟩ := enterTrap_of_fits [s.sr, s.usp, s.ip + 1] syscallVector s (by simp) hfits
  have hsvc : svcEntry s = t.clearError := by simp only [svcEntry, htrap]
  rw [hsvc]
  exact hentered

/-- An exception frame has five words for a MemoryAccessError and four for every other (60_exceptions R489). -/
theorem exceptionWords_length_le (e : Exc) (s : State) : (exceptionWords e s).length ≤ 5 := by
  cases e <;> simp [exceptionWords]

/-- An exception entry from user mode whose frame fits (60_exceptions R489). -/
theorem takeException_of_fits {s : State} (e : Exc) (huser : s.supervisor = false) (hfits : FrameFits s (exceptionWords e s).length) :
    Entered (exceptionWords e s) excVector [15] s (takeException e s) := by
  have hlen := exceptionWords_length_le e s
  obtain ⟨t, htrap, hentered, -⟩ := enterTrap_of_fits (exceptionWords e s) excVector s (by omega) hfits
  have htaken : takeException e s = t.clearError := by simp [takeException, huser, htrap]
  rw [htaken]
  exact hentered

/-! ### The interrupt entry -/

/-- Clearing HALT is the mask `0xFFFE`. -/
theorem setHalted_false_sr (s : State) : (s.setHalted false).sr = s.sr &&& 0xFFFE := rfl

/-- Clearing HALT leaves the mode, so SP names the same register. -/
@[simp] theorem sp_setHalted (s : State) (v : Bool) : (s.setHalted v).sp = s.sp := by simp [State.sp]

/-- The trap entry of an interrupt changes SR.SUPERVISOR alone; with HALT cleared before it and IRQMASK after it, the whole changes the bits
0, 4 and 15 (60_exceptions R487). -/
theorem Entered.interrupt {words : List Word} {vector : Word} {s t : State} (h : Entered words vector [15] (s.setHalted false) t) :
    Entered words vector [0, 4, 15] s (t.setIrqEnabled false) ∧
      (t.setIrqEnabled false).halted = false ∧ (t.setIrqEnabled false).irqEnabled = false := by
  obtain ⟨hsup, hip, hssp, hframe, ha, hb, hc, hd, husp, hsr, hmem, hdev⟩ := h
  refine ⟨⟨?_, hip, hssp, hframe, ha, hb, hc, hd, husp, ?_, hmem, hdev⟩, ?_, by simp⟩
  · simpa using hsup
  · intro n hn
    obtain ⟨h0, h4, h15⟩ : n ≠ 0 ∧ n ≠ 4 ∧ n ≠ 15 := by simpa using hn
    calc (setBit t.sr 4 false).getLsbD n = t.sr.getLsbD n := setBit_other _ _ _ _ h4
      _ = (setBit s.sr 0 false).getLsbD n := hsr n (by simpa using h15)
      _ = s.sr.getLsbD n := setBit_other _ _ _ _ h0
  · calc (setBit t.sr 4 false).getLsbD 0 = t.sr.getLsbD 0 := setBit_other _ _ _ _ (by decide)
      _ = (setBit s.sr 0 false).getLsbD 0 := hsr 0 (by decide)
      _ = false := setBit_self _ _ _ (by decide)

/-- An interrupt entry whose frame fits (60_exceptions R487, R490). -/
theorem interruptEntry_of_fits {s : State} (hfits : FrameFits s 3) :
    Entered [s.sr &&& 0xFFFE, s.sp, s.ip] irqVector [0, 4, 15] s (interruptEntry s) ∧
      (interruptEntry s).halted = false ∧ (interruptEntry s).irqEnabled = false := by
  obtain ⟨t, htrap, hentered, -⟩ :=
    enterTrap_of_fits [s.sr &&& 0xFFFE, s.sp, s.ip] irqVector (s.setHalted false) (by simp) hfits
  have hentry : interruptEntry s = t.setIrqEnabled false := by
    simp only [interruptEntry, setHalted_false_sr, sp_setHalted, State.setHalted_ip, htrap]
  rw [hentry]
  exact hentered.interrupt

/-! ### The interrupt check -/

/-- A line requests when it is pending and enabled (10_state R54). -/
theorem irqIn_iff (s : State) : s.irqIn = true ↔ s.icStatus &&& s.icMask ≠ 0 := by simp [State.irqIn]

/-- In FAULT, without a request, or with SR.IRQMASK clear the check does nothing (60_exceptions R480). -/
theorem recogniseInterrupt_of_not_taken {s : State} (h : s.faulted = true ∨ s.icStatus &&& s.icMask = 0 ∨ s.irqEnabled = false) :
    recogniseInterrupt s = s := by
  rcases recogniseInterrupt_cases s with heq | ⟨hfault, hirq, hen, -⟩
  · exact heq
  · rcases h with h | h | h
    · exact absurd h (by simp [hfault])
    · exact absurd h ((irqIn_iff s).mp hirq)
    · exact absurd h (by simp [hen])

/-- Otherwise it is the interrupt entry. -/
theorem recogniseInterrupt_of_taken {s : State} (hfault : s.faulted = false) (hirq : s.icStatus &&& s.icMask ≠ 0)
    (hen : s.irqEnabled = true) : recogniseInterrupt s = interruptEntry s := by
  simp [recogniseInterrupt, hfault, (irqIn_iff s).mpr hirq, hen]

@[simp] theorem faulted_goToFault (e : Exc) (s : State) : (goToFault e s).faulted = true := faulted_setFaulted s true

/-- The check either leaves FAULT set, or SR.IRQMASK clear, or had nothing to do: a second one finds nothing to do. -/
theorem recogniseInterrupt_idem (s : State) : recogniseInterrupt (recogniseInterrupt s) = recogniseInterrupt s := by
  rcases recogniseInterrupt_cases s with h | ⟨-, -, -, h | ⟨t, _, -, h⟩⟩
  · rw [h, h]
  · rw [h]
    exact recogniseInterrupt_of_not_taken (.inl (faulted_goToFault _ _))
  · rw [h]
    exact recogniseInterrupt_of_not_taken (.inr (.inr (irqEnabled_setIrqEnabled _ _)))

/-! ### An error is reported only in FAULT (60_exceptions R491, R492; log 4) -/

/-- An exception that does not put the machine in FAULT is no error to report. -/
theorem takeException_stepError {e : Exc} {s : State} (h : (takeException e s).faulted = false) : (takeException e s).stepError = none := by
  rcases takeException_cases e s with hfault | ⟨-, t, -, hentered⟩
  · simp [hfault] at h
  · rw [hentered]
    rfl

/-- Nor is an SVC that does not. -/
theorem svcEntry_stepError {s : State} (h : (svcEntry s).faulted = false) : (svcEntry s).stepError = none := by
  rcases svcEntry_cases s with hfault | ⟨t, -, hentered⟩
  · simp [hfault] at h
  · rw [hentered]
    rfl

/-- A handler that completes leaves no error, and one that raises leaves what its exception does. -/
theorem conclude_stepError {s t : State} {r : Except Exc State} (h : conclude s r = .next t) (ht : t.faulted = false) :
    t.stepError = none := by
  cases r with
  | ok u =>
    cases h
    rfl
  | error e =>
    cases h
    exact takeException_stepError ht

/-- SVC raises in supervisor mode and is an SVC entry in user mode: neither reports an error outside FAULT. -/
theorem supervisorCall_stepError {s : State} (h : (supervisorCall s).faulted = false) : (supervisorCall s).stepError = none := by
  cases hs : s.supervisor with
  | true =>
    simp only [supervisorCall, hs, if_true] at h ⊢
    exact takeException_stepError h
  | false =>
    rw [supervisorCall_user hs] at h ⊢
    exact svcEntry_stepError h

/-- An instruction whose next state is not in FAULT leaves no error to report. -/
theorem exec_stepError {i : Instr} {s t : State} (h : exec i s = .next t) (ht : t.faulted = false) : t.stepError = none := by
  by_cases hiret : i = .iret
  · subst hiret
    exact conclude_stepError (r := trapReturn s) h ht
  · by_cases hsvc : i = .svc
    · subst hsvc
      cases h
      exact supervisorCall_stepError ht
    · obtain ⟨f, hf, -⟩ := exec_handler i hiret hsvc
      exact conclude_stepError ((hf s).symm.trans h) ht

/-! ### Where the check is made (60_exceptions R475, R501) -/

/-- After an instruction or a trap entry that left no error come the tick and the check. -/
theorem finishStep_of_no_error {t : State} (h : t.stepError = none) : finishStep (.next t) = .next (recogniseInterrupt (tick t)) := by
  simp [finishStep, h]

/-- A step of a halted control unit is its tick and its check. -/
theorem step_of_halted {s : State} (hfault : s.faulted = false) (hhalt : s.halted = true) : step s = .next (haltedStep s) := by
  simp [step, hfault, hhalt]

/-- A step whose fetch decodes runs the instruction. -/
theorem step_of_fetched {s : State} {i : Instr} (hfault : s.faulted = false) (hhalt : s.halted = false) (hfetch : fetchDecode s = .ok i) :
    step s = finishStep (exec i s) := by
  simp [step, hfault, hhalt, hfetch]

/-- A step whose fetch raises takes the exception. -/
theorem step_of_fetch_error {s : State} {e : Exc} (hfault : s.faulted = false) (hhalt : s.halted = false)
    (hfetch : fetchDecode s = .error e) : step s = finishStep (.next (takeException e s)) := by
  simp [step, hfault, hhalt, hfetch]

/-- A line call outside FAULT for a line that exists moves the line, then makes the check. -/
theorem lineCall_of_line {move : State → State} {n : Nat} {s : State} (hfault : s.faulted = false) (hn : n < 16) :
    (lineCall move n s).1 = recogniseInterrupt (move s.clearError) := by
  simp [lineCall, hfault, show ¬ 15 < n by omega]

/-- Moving a line changes neither SR nor the mask, so the check after a line call looks at those the call found. -/
theorem hostCall_line {call : HostCall} {n : Nat} {s : State} (hcall : call = .raiseLine n ∨ call = .lowerLine n ∨ call = .triggerLine n)
    (hn : n < 16) (hfault : s.faulted = false) :
    ∃ t, t.sr = s.sr ∧ t.icMask = s.icMask ∧ (hostCall call s).1 = recogniseInterrupt t := by
  rcases hcall with rfl | rfl | rfl
  · exact ⟨assertLine n s.clearError, rfl, rfl, lineCall_of_line hfault hn⟩
  · exact ⟨releaseLine n s.clearError, rfl, rfl, lineCall_of_line hfault hn⟩
  · exact ⟨pulseLine n s.clearError, rfl, rfl, lineCall_of_line hfault hn⟩

/-! ### The obligations -/

/-- Settles O32: in user mode SVC is `svcEntry`, and `svcEntry_of_fits` says what that leaves. -/
theorem svcEnters : Obligations.SvcEnters := by
  intro s huser hfits
  have hexec : exec .svc s = .next (svcEntry s) := congrArg Host.Outcome.next (supervisorCall_user huser)
  exact ⟨svcEntry s, hexec, svcEntry_of_fits hfits⟩

/-- Settles O42: `takeException_of_fits` at each exception, whose words `exceptionWords` lists. -/
theorem exceptionFrame : Obligations.ExceptionFrame := by
  intro s huser
  refine ⟨fun x hfits => takeException_of_fits (.memoryAccess x) huser hfits, fun e code hfits hcode => ?_⟩
  rcases hcode with ⟨rfl, rfl⟩ | ⟨rfl, rfl⟩ | ⟨rfl, rfl⟩ | ⟨rfl, rfl⟩ | ⟨rfl, rfl⟩
  · exact takeException_of_fits .divideByZero huser hfits
  · exact takeException_of_fits .instructionFetch huser hfits
  · exact takeException_of_fits .unknownOpcode huser hfits
  · exact takeException_of_fits .illegalInstruction huser hfits
  · exact takeException_of_fits .stackAccess huser hfits

/-- Settles O44: the check by its two cases, its entry by `interruptEntry_of_fits`, and the places it is made by the equations of `step` and
of the line calls; a step that is not in FAULT has no error to stop at (`exec_stepError`, `takeException_stepError`). -/
theorem interruptRecognition : Obligations.InterruptRecognition := by
  intro s
  refine ⟨recogniseInterrupt_of_not_taken, ?taken, recogniseInterrupt_idem s, ?halted, ?executed, ?raised, ?called⟩
  case taken =>
    intro hfault hirq hen hfits
    rw [recogniseInterrupt_of_taken hfault hirq hen]
    exact interruptEntry_of_fits hfits
  case halted => exact fun hfault hhalt => ⟨none, step_of_halted hfault hhalt⟩
  case executed =>
    intro i t hfault hhalt hfetch hexec ht
    rw [step_of_fetched hfault hhalt hfetch, hexec, finishStep_of_no_error (exec_stepError hexec ht)]
  case raised =>
    intro e hfault hhalt hfetch ht
    rw [step_of_fetch_error hfault hhalt hfetch, finishStep_of_no_error (takeException_stepError ht)]
  case called => exact fun _ _ hcall hn hfault => hostCall_line hcall hn hfault

end Sys2Proof.Machine
end

section
/-! PROOFS. The decoder and the encoder (30_encoding): what each format builds and how many bytes it reads, and the statements O1 to O4. -/

namespace Sys2Proof.Machine

/-! ### The formats -/

/-- `k` is an instruction with the opcode `op` and no operands. -/
def Builds0 (op : Byte) (k : Instr) : Prop := k.opcode = op ∧ k.operands = []

/-- `k` makes instructions with the opcode `op` and one operand, of the type `o`. -/
def Builds1 {α : Type} (op : Byte) (o : α → Operand) (k : α → Instr) : Prop := ∀ x, (k x).opcode = op ∧ (k x).operands = [o x]

/-- `k` makes instructions with the opcode `op` and two operands, of the types `o` and `p`. -/
def Builds2 {α β : Type} (op : Byte) (o : α → Operand) (p : β → Operand) (k : α → β → Instr) : Prop :=
  ∀ x y, (k x y).opcode = op ∧ (k x y).operands = [o x, p y]

/-- What a reader that made `i` of these bytes has told: the opcode, the bytes that were read, and legal bases. -/
def ReadFrom (op : Byte) (bs rest : List Byte) (i : Instr) : Prop :=
  i.opcode = op ∧ bs = i.operands.flatMap encodeOperand ++ rest ∧ i.operands.all baseLegal = true

theorem Builds0.bytes {op : Byte} {k : Instr} (law : Builds0 op k) (rest : List Byte) : ReadFrom op rest rest k := by
  obtain ⟨hop, hops⟩ := law
  simp [ReadFrom, hop, hops]

theorem Builds1.bytes {α : Type} {op : Byte} {o : α → Operand} {k : α → Instr} (law : Builds1 op o k) (x : α) (rest : List Byte)
    (hx : baseLegal (o x) = true) : ReadFrom op (encodeOperand (o x) ++ rest) rest (k x) := by
  obtain ⟨hop, hops⟩ := law x
  simp [ReadFrom, hop, hops, hx]

theorem Builds2.bytes {α β : Type} {op : Byte} {o : α → Operand} {p : β → Operand} {k : α → β → Instr} (law : Builds2 op o p k)
    (x : α) (y : β) (rest : List Byte) (hx : baseLegal (o x) = true) (hy : baseLegal (p y) = true) :
    ReadFrom op (encodeOperand (o x) ++ (encodeOperand (p y) ++ rest)) rest (k x y) := by
  obtain ⟨hop, hops⟩ := law x y
  simp [ReadFrom, hop, hops, hx, hy]

/-- `Built op sh ops i`: the format `sh` builds `i` from the operands `ops` (30_encoding R123), and from other operands of these types other
instructions with the opcode `op`. -/
inductive Built (op : Byte) : Shape → List Operand → Instr → Prop where
  | n (k) (law : Builds0 op k) : Built op (shapeN k) [] k
  | r16 (k x) (law : Builds1 op .r16 k) : Built op (shapeR16 k) [.r16 x] (k x)
  | r8 (k x) (law : Builds1 op .r8 k) : Built op (shapeR8 k) [.r8 x] (k x)
  | b (k x) (law : Builds1 op .byte k) : Built op (shapeB k) [.byte x] (k x)
  | w (k x) (law : Builds1 op .word k) : Built op (shapeW k) [.word x] (k x)
  | ad (k x) (law : Builds1 op .addr k) : Built op (shapeAd k) [.addr x] (k x)
  | ra (k x) (law : Builds1 op .regAddr k) : Built op (shapeRa k) [.regAddr x] (k x)
  | r16r16 (k x y) (law : Builds2 op .r16 .r16 k) : Built op (shapeR16R16 k) [.r16 x, .r16 y] (k x y)
  | r8r8 (k x y) (law : Builds2 op .r8 .r8 k) : Built op (shapeR8R8 k) [.r8 x, .r8 y] (k x y)
  | r8b (k x y) (law : Builds2 op .r8 .byte k) : Built op (shapeR8B k) [.r8 x, .byte y] (k x y)
  | r16w (k x y) (law : Builds2 op .r16 .word k) : Built op (shapeR16W k) [.r16 x, .word y] (k x y)
  | r16ad (k x y) (law : Builds2 op .r16 .addr k) : Built op (shapeR16Ad k) [.r16 x, .addr y] (k x y)
  | r16ra (k x y) (law : Builds2 op .r16 .regAddr k) : Built op (shapeR16Ra k) [.r16 x, .regAddr y] (k x y)
  | r8ad (k x y) (law : Builds2 op .r8 .addr k) : Built op (shapeR8Ad k) [.r8 x, .addr y] (k x y)
  | r8ra (k x y) (law : Builds2 op .r8 .regAddr k) : Built op (shapeR8Ra k) [.r8 x, .regAddr y] (k x y)
  | adr16 (k x y) (law : Builds2 op .addr .r16 k) : Built op (shapeAdR16 k) [.addr x, .r16 y] (k x y)
  | rar16 (k x y) (law : Builds2 op .regAddr .r16 k) : Built op (shapeRaR16 k) [.regAddr x, .r16 y] (k x y)
  | adr8 (k x y) (law : Builds2 op .addr .r8 k) : Built op (shapeAdR8 k) [.addr x, .r8 y] (k x y)
  | rar8 (k x y) (law : Builds2 op .regAddr .r8 k) : Built op (shapeRaR8 k) [.regAddr x, .r8 y] (k x y)
  | adb (k x y) (law : Builds2 op .addr .byte k) : Built op (shapeAdB k) [.addr x, .byte y] (k x y)
  | rab (k x y) (law : Builds2 op .regAddr .byte k) : Built op (shapeRaB k) [.regAddr x, .byte y] (k x y)
  | adw (k x y) (law : Builds2 op .addr .word k) : Built op (shapeAdW k) [.addr x, .word y] (k x y)
  | raw (k x y) (law : Builds2 op .regAddr .word k) : Built op (shapeRaW k) [.regAddr x, .word y] (k x y)

/-- A format answers the instruction it builds on the bytes of its operands, when their bases are legal (30_encoding R124). -/
theorem Built.parse_encoded {op : Byte} {sh : Shape} {ops : List Operand} {i : Instr} (h : Built op sh ops i) (rest : List Byte)
    (hlegal : ops.all baseLegal = true) : sh.parse (ops.flatMap encodeOperand ++ rest) = .ok (i, rest) := by
  cases h with
  | n => exact parse_shapeN i rest
  | r16 k x => exact parse_shapeR16 k x rest
  | r8 k x => exact parse_shapeR8 k x rest
  | b k x => exact parse_shapeB k x rest
  | w k x => exact parse_shapeW k x rest
  | ad k x => exact parse_shapeAd k x rest
  | ra k x => exact parse_shapeRa k x rest (by simpa [baseLegal] using hlegal)
  | r16r16 k x y => exact parse_shapeR16R16 k x y rest
  | r8r8 k x y => exact parse_shapeR8R8 k x y rest
  | r8b k x y => exact parse_shapeR8B k x y rest
  | r16w k x y => exact parse_shapeR16W k x y rest
  | r16ad k x y => exact parse_shapeR16Ad k x y rest
  | r16ra k x y => exact parse_shapeR16Ra k x y rest (by simpa [baseLegal] using hlegal)
  | r8ad k x y => exact parse_shapeR8Ad k x y rest
  | r8ra k x y => exact parse_shapeR8Ra k x y rest (by simpa [baseLegal] using hlegal)
  | adr16 k x y => exact parse_shapeAdR16 k x y rest
  | rar16 k x y => exact parse_shapeRaR16 k x y rest (by simpa [baseLegal] using hlegal)
  | adr8 k x y => exact parse_shapeAdR8 k x y rest
  | rar8 k x y => exact parse_shapeRaR8 k x y rest (by simpa [baseLegal] using hlegal)
  | adb k x y => exact parse_shapeAdB k x y rest
  | rab k x y => exact parse_shapeRaB k x y rest (by simpa [baseLegal] using hlegal)
  | adw k x y => exact parse_shapeAdW k x y rest
  | raw k x y => exact parse_shapeRaW k x y rest (by simpa [baseLegal] using hlegal)

/-- Whatever a format answers has the opcode, its operands' bytes were the ones read, and its bases are legal. -/
theorem Built.of_parse {op : Byte} {sh : Shape} {ops : List Operand} {i j : Instr} {bs rest : List Byte} (hb : Built op sh ops i)
    (h : sh.parse bs = .ok (j, rest)) : ReadFrom op bs rest j := by
  cases hb with
  | n k law =>
    obtain ⟨rfl, rfl⟩ := parse_shapeN_inv h
    exact law.bytes _
  | r16 k _ law =>
    obtain ⟨x, rfl, rfl⟩ := parse_shapeR16_inv h
    exact law.bytes x rest rfl
  | r8 k _ law =>
    obtain ⟨x, rfl, rfl⟩ := parse_shapeR8_inv h
    exact law.bytes x rest rfl
  | b k _ law =>
    obtain ⟨x, rfl, rfl⟩ := parse_shapeB_inv h
    exact law.bytes x rest rfl
  | w k _ law =>
    obtain ⟨x, rfl, rfl⟩ := parse_shapeW_inv h
    exact law.bytes x rest rfl
  | ad k _ law =>
    obtain ⟨x, rfl, rfl⟩ := parse_shapeAd_inv h
    exact law.bytes x rest rfl
  | ra k _ law =>
    obtain ⟨x, rfl, rfl, hbase⟩ := parse_shapeRa_inv h
    exact law.bytes x rest hbase
  | r16r16 k _ _ law =>
    obtain ⟨x, y, rfl, rfl⟩ := parse_shapeR16R16_inv h
    exact law.bytes x y rest rfl rfl
  | r8r8 k _ _ law =>
    obtain ⟨x, y, rfl, rfl⟩ := parse_shapeR8R8_inv h
    exact law.bytes x y rest rfl rfl
  | r8b k _ _ law =>
    obtain ⟨x, y, rfl, rfl⟩ := parse_shapeR8B_inv h
    exact law.bytes x y rest rfl rfl
  | r16w k _ _ law =>
    obtain ⟨x, y, rfl, rfl⟩ := parse_shapeR16W_inv h
    exact law.bytes x y rest rfl rfl
  | r16ad k _ _ law =>
    obtain ⟨x, y, rfl, rfl⟩ := parse_shapeR16Ad_inv h
    exact law.bytes x y rest rfl rfl
  | r16ra k _ _ law =>
    obtain ⟨x, y, rfl, rfl, hbase⟩ := parse_shapeR16Ra_inv h
    exact law.bytes x y rest rfl hbase
  | r8ad k _ _ law =>
    obtain ⟨x, y, rfl, rfl⟩ := parse_shapeR8Ad_inv h
    exact law.bytes x y rest rfl rfl
  | r8ra k _ _ law =>
    obtain ⟨x, y, rfl, rfl, hbase⟩ := parse_shapeR8Ra_inv h
    exact law.bytes x y rest rfl hbase
  | adr16 k _ _ law =>
    obtain ⟨x, y, rfl, rfl⟩ := parse_shapeAdR16_inv h
    exact law.bytes x y rest rfl rfl
  | rar16 k _ _ law =>
    obtain ⟨x, y, rfl, rfl, hbase⟩ := parse_shapeRaR16_inv h
    exact law.bytes x y rest hbase rfl
  | adr8 k _ _ law =>
    obtain ⟨x, y, rfl, rfl⟩ := parse_shapeAdR8_inv h
    exact law.bytes x y rest rfl rfl
  | rar8 k _ _ law =>
    obtain ⟨x, y, rfl, rfl, hbase⟩ := parse_shapeRaR8_inv h
    exact law.bytes x y rest hbase rfl
  | adb k _ _ law =>
    obtain ⟨x, y, rfl, rfl⟩ := parse_shapeAdB_inv h
    exact law.bytes x y rest rfl rfl
  | rab k _ _ law =>
    obtain ⟨x, y, rfl, rfl, hbase⟩ := parse_shapeRaB_inv h
    exact law.bytes x y rest hbase rfl
  | adw k _ _ law =>
    obtain ⟨x, y, rfl, rfl⟩ := parse_shapeAdW_inv h
    exact law.bytes x y rest rfl rfl
  | raw k _ _ law =>
    obtain ⟨x, y, rfl, rfl, hbase⟩ := parse_shapeRaW_inv h
    exact law.bytes x y rest hbase rfl

/-! ### How far a format reads -/

/-- The bytes after an operand, or why it cannot be read. -/
def skipOperand : Operand → List Byte → Except DecodeError (List Byte)
  | .r16 _, bs | .r8 _, bs | .byte _, bs => Prod.snd <$> takeByte bs
  | .word _, bs | .addr _, bs => Prod.snd <$> takeWord bs
  | .regAddr _, bs => Prod.snd <$> takeRegAddr bs

/-- The bytes after a list of operands, read left to right. -/
def skipOperands : List Operand → List Byte → Except DecodeError (List Byte)
  | [], bs => pure bs
  | o :: os, bs => skipOperand o bs >>= skipOperands os

/-- A format reads the bytes of its operands and no others, left to right (30_encoding R124). -/
theorem Built.parse_snd {op : Byte} {sh : Shape} {ops : List Operand} {i : Instr} (h : Built op sh ops i) (bs : List Byte) :
    Prod.snd <$> sh.parse bs = skipOperands ops bs := by
  cases h <;>
    simp [skipOperands, skipOperand, shapeN, shapeR16, shapeR8, shapeB, shapeW, shapeAd, shapeRa, shapeR16R16, shapeR8R8, shapeR8B, shapeR16W,
      shapeR16Ad, shapeR16Ra, shapeR8Ad, shapeR8Ra, shapeAdR16, shapeRaR16, shapeAdR8, shapeRaR8, shapeAdB, shapeRaB, shapeAdW, shapeRaW]
  rfl

/-- An operand cut short fails in the fetch. -/
theorem skipOperand_take (o : Operand) (tail : List Byte) {k : Nat} (hk : k < o.size) :
    skipOperand o ((encodeOperand o ++ tail).take k) = .error .fetch := by
  match o, k, hk with
  | .r16 _, 0, _ | .r8 _, 0, _ | .byte _, 0, _ => rfl
  | .word _, 0, _ | .word _, 1, _ | .addr _, 0, _ | .addr _, 1, _ | .regAddr _, 0, _ | .regAddr _, 1, _ => rfl

/-- An operand whose bytes are all there is read past, unless its base is illegal. -/
theorem skipOperand_encoded (o : Operand) (tail : List Byte) :
    skipOperand o (encodeOperand o ++ tail) = if baseLegal o then .ok tail else .error .illegalBase := by
  cases o with
  | r16 | r8 | byte => rfl
  | word v | addr v => simp [skipOperand, encodeOperand, takeWord_bytes, baseLegal]
  | regAddr m => cases hbase : isReg16 m.base <;> simp [skipOperand, encodeOperand, takeRegAddr, baseLegal, hbase]

theorem skipOperand_ne_unknownOpcode (o : Operand) (bs : List Byte) : skipOperand o bs ≠ .error .unknownOpcode := by
  intro h
  match o, bs with
  | .r16 _, [] | .r8 _, [] | .byte _, [] | .word _, [] | .addr _, [] | .regAddr _, [] => cases h
  | .r16 _, _ :: _ | .r8 _, _ :: _ | .byte _, _ :: _ | .word _, [_] | .addr _, [_] | .regAddr _, [_] => cases h
  | .word _, _ :: _ :: _ | .addr _, _ :: _ :: _ => cases h
  | .regAddr _, _ :: base :: _ =>
    simp only [skipOperand, takeRegAddr] at h
    split at h <;> cases h

/-- Reading operands never reports an unknown opcode: only the opcode byte can be one. -/
theorem skipOperands_ne_unknownOpcode (ops : List Operand) (bs : List Byte) : skipOperands ops bs ≠ .error .unknownOpcode := by
  induction ops generalizing bs with
  | nil => exact fun h => by cases h
  | cons o os ih =>
    cases hskip : skipOperand o bs with
    | ok bs' =>
      simp only [skipOperands, hskip]
      exact ih bs'
    | error e =>
      simp only [skipOperands, hskip]
      rintro ⟨⟩
      exact skipOperand_ne_unknownOpcode o bs hskip

/-- Operands cut short before their last byte that is read fail in the fetch (30_encoding R124). -/
theorem skipOperands_take (ops : List Operand) {k : Nat} (hk : k < operandBytesRead ops) :
    skipOperands ops ((ops.flatMap encodeOperand).take k) = .error .fetch := by
  induction ops generalizing k with
  | nil => exact absurd hk (Nat.not_lt_zero k)
  | cons o os ih =>
    simp only [operandBytesRead] at hk
    simp only [skipOperands, List.flatMap_cons]
    by_cases hcut : k < o.size
    · rw [skipOperand_take o _ hcut]
      rfl
    · have hbase : baseLegal o = true := by
        by_contra hbase
        simp only [hbase] at hk
        exact hcut hk
      simp only [hbase, if_true] at hk
      rw [List.take_append, List.take_of_length_le (by rw [← Operand.size_eq_length]; omega), skipOperand_encoded, if_pos hbase]
      exact ih (by rw [← Operand.size_eq_length]; omega)

/-- Operands with an illegal base fail there, whatever follows it (30_encoding R124, R128). -/
theorem skipOperands_illegal (ops : List Operand) (rest : List Byte) (h : ops.all baseLegal = false) :
    skipOperands ops ((ops.flatMap encodeOperand).take (operandBytesRead ops) ++ rest) = .error .illegalBase := by
  induction ops with
  | nil => cases h
  | cons o os ih =>
    have hlen := Operand.size_eq_length o
    simp only [operandBytesRead, skipOperands, List.flatMap_cons]
    rw [List.take_append, List.take_of_length_le (by omega), List.append_assoc, skipOperand_encoded]
    cases hbase : baseLegal o with
    | false => rfl
    | true =>
      rw [List.all_cons, hbase, Bool.true_and] at h
      have hleft : o.size + operandBytesRead os - (encodeOperand o).length = operandBytesRead os := by omega
      simp only [if_true, hleft]
      exact ih h

/-! ### The opcode map -/

/-- Where the opcodes of a list of rows count up from `n`, a row is found by its place in the list. -/
theorem findRow_eq_getElem? (op : Byte) (n : Nat) (l : List Row) (hl : l.map (·.opcode.toNat) = List.range' n l.length)
    (hn : n ≤ op.toNat) : findRow op l = l[op.toNat - n]? := by
  induction l generalizing n with
  | nil => rfl
  | cons row l ih =>
    simp only [List.map_cons, List.length_cons, List.range'_succ, List.cons.injEq] at hl
    obtain ⟨hrow, hl⟩ := hl
    by_cases heq : row.opcode = op
    · have : op.toNat - n = 0 := by rw [← heq]; omega
      simp [findRow, heq, this]
    · have hne : row.opcode.toNat ≠ op.toNat := fun h => heq (BitVec.eq_of_toNat_eq h)
      have : op.toNat - n = op.toNat - (n + 1) + 1 := by omega
      simp only [findRow, heq, if_false, this, List.getElem?_cons_succ]
      exact ih (n + 1) hl (by omega)

/-- The opcodes of the opcode map count up from 0 (30_encoding R131). -/
theorem registry_opcodes : registry.map (·.opcode.toNat) = List.range' 0 142 := by
  have hmove : rowsMove.map (·.opcode.toNat) = List.range' 0 17 := rfl
  have haddSub : rowsAddSub.map (·.opcode.toNat) = List.range' 17 20 := rfl
  have hcompare : rowsCompare.map (·.opcode.toNat) = List.range' 37 8 := rfl
  have hjump : rowsJump.map (·.opcode.toNat) = List.range' 45 14 := rfl
  have hstack : rowsStack.map (·.opcode.toNat) = List.range' 59 13 := rfl
  have hmulDiv : rowsMulDiv.map (·.opcode.toNat) = List.range' 72 16 := rfl
  have hbitwise : rowsBitwise.map (·.opcode.toNat) = List.range' 88 24 := rfl
  have hshift : rowsShift.map (·.opcode.toNat) = List.range' 112 18 := rfl
  have hsystem : rowsSystem.map (·.opcode.toNat) = List.range' 130 12 := rfl
  simp only [registry, List.map_append, hmove, haddSub, hcompare, hjump, hstack, hmulDiv, hbitwise, hshift, hsystem]
  rfl

theorem registry_length : registry.length = 142 := by simpa using congrArg List.length registry_opcodes

/-- A row of the opcode map is found by its place. -/
theorem findRow_registry (op : Byte) : findRow op registry = registry[op.toNat]? :=
  findRow_eq_getElem? op 0 registry (by rw [registry_length, registry_opcodes]) (Nat.zero_le _)

/-- The opcode map has a row for every instruction, whose format builds it from its operands (30_encoding R131). -/
theorem row_of_instr (i : Instr) : ∃ row, findRow i.opcode registry = some row ∧ Built i.opcode row.shape i.operands i := by
  rw [findRow_registry]
  cases i <;> refine ⟨_, rfl, ?_⟩ <;> constructor <;> (repeat intro _) <;> exact ⟨rfl, rfl⟩

/-- What the row's format makes of four bytes 0 has the row's opcode. -/
def buildsItsOpcode (row : Row) : Bool :=
  match row.shape.parse [0, 0, 0, 0] with
  | .ok (i, _) => i.opcode == row.opcode
  | .error _ => false

theorem registry_buildsItsOpcode : registry.all buildsItsOpcode = true := by
  simp only [registry, List.all_append, Bool.and_eq_true]
  exact ⟨⟨⟨⟨⟨⟨⟨⟨rfl, rfl⟩, rfl⟩, rfl⟩, rfl⟩, rfl⟩, rfl⟩, rfl⟩, rfl⟩

/-- Every row of the opcode map is the row of an instruction. -/
theorem instr_of_row {op : Byte} {row : Row} (h : findRow op registry = some row) : ∃ i : Instr, i.opcode = op := by
  obtain ⟨hmem, rfl⟩ := findRow_mem h
  have hrow := List.all_eq_true.mp registry_buildsItsOpcode row hmem
  unfold buildsItsOpcode at hrow
  split at hrow
  · next i _ _ => exact ⟨i, beq_iff_eq.mp hrow⟩
  · cases hrow

/-- Whatever row an opcode selects, its format builds instructions with that opcode. -/
theorem built_of_row {op : Byte} {row : Row} (h : findRow op registry = some row) : ∃ ops i, Built op row.shape ops i := by
  obtain ⟨i, rfl⟩ := instr_of_row h
  obtain ⟨row', hrow, hbuilt⟩ := row_of_instr i
  cases h.symm.trans hrow
  exact ⟨_, _, hbuilt⟩

/-! ### Decoding -/

/-- Decoding a byte that selects a row is that row's format on the bytes after it. -/
theorem decode_opcode (i : Instr) : ∃ sh, Built i.opcode sh i.operands i ∧ ∀ bs, decode (i.opcode :: bs) = sh.parse bs := by
  obtain ⟨row, hrow, hbuilt⟩ := row_of_instr i
  exact ⟨row.shape, hbuilt, fun _ => decode_of_row hrow⟩

/-- Where the operands cannot be read past, decoding fails with the same reason. -/
theorem decode_error_of_skip {i : Instr} {bs : List Byte} {e : DecodeError} (h : skipOperands i.operands bs = .error e) :
    decode (i.opcode :: bs) = .error e := by
  obtain ⟨sh, hbuilt, hdecode⟩ := decode_opcode i
  have hskip : Prod.snd <$> sh.parse bs = .error e := (hbuilt.parse_snd bs).trans h
  rw [hdecode]
  cases hparse : sh.parse bs with
  | ok p => rw [hparse] at hskip; cases hskip
  | error e' => rw [hparse] at hskip; cases hskip; rfl

/-- An encoding cut short of the bytes decoding reads fails in the fetch (30_encoding R124). -/
theorem decode_take {i : Instr} {k : Nat} (hk : k < bytesRead i) : decode ((encode i).take k) = .error .fetch := by
  cases k with
  | zero => rfl
  | succ k => exact decode_error_of_skip (skipOperands_take i.operands (by simp only [bytesRead] at hk; omega))

/-- An illegal base fails as soon as it is read, whatever follows (30_encoding R124, R128). -/
theorem decode_illegal {i : Instr} (rest : List Byte) (h : basesLegal i = false) :
    decode ((encode i).take (bytesRead i) ++ rest) = .error .illegalBase := by
  have hread : (encode i).take (bytesRead i) ++ rest =
      i.opcode :: ((i.operands.flatMap encodeOperand).take (operandBytesRead i.operands) ++ rest) := by
    simp [encode, bytesRead, Nat.add_comm 1]
  rw [hread]
  exact decode_error_of_skip (skipOperands_illegal i.operands rest h)

/-- Decoding the encoding of an instruction with legal bases (30_encoding R120 to R131). -/
theorem decode_encode {i : Instr} (rest : List Byte) (h : basesLegal i = true) : decode (encode i ++ rest) = .ok (i, rest) := by
  obtain ⟨sh, hbuilt, hdecode⟩ := decode_opcode i
  exact (hdecode _).trans (hbuilt.parse_encoded rest h)

/-- What decodes is the encoding of what it decodes to, whose bases are legal. -/
theorem decode_inv {bs rest : List Byte} {i : Instr} (h : decode bs = .ok (i, rest)) :
    bs = encode i ++ rest ∧ basesLegal i = true := by
  cases bs with
  | nil => cases h
  | cons op bs =>
    cases hrow : findRow op registry with
    | none => simp [decode, hrow] at h
    | some row =>
      rw [decode_of_row hrow] at h
      obtain ⟨_, _, hbuilt⟩ := built_of_row hrow
      obtain ⟨rfl, rfl, hlegal⟩ := hbuilt.of_parse h
      exact ⟨rfl, hlegal⟩

/-- The encoded size is the size of the format (30_encoding R121). -/
theorem encode_length (i : Instr) : (encode i).length = i.size := by
  simp [encode, Instr.size, List.length_flatMap, ← Operand.size_eq_length, Nat.add_comm]

/-- An opcode byte selects no row exactly from 142 on (30_encoding R132). -/
theorem findRow_eq_none_iff (op : Byte) : findRow op registry = none ↔ 142 ≤ op.toNat := by
  rw [findRow_registry, List.getElem?_eq_none_iff, registry_length]

/-- Decoding reports an unknown opcode exactly from 142 on (30_encoding R132). -/
theorem decode_unknownOpcode_iff (op : Byte) (rest : List Byte) :
    decode (op :: rest) = .error .unknownOpcode ↔ 142 ≤ op.toNat := by
  rw [← findRow_eq_none_iff]
  cases hrow : findRow op registry with
  | none => simp [decode, hrow]
  | some row =>
    obtain ⟨ops, _, hbuilt⟩ := built_of_row hrow
    rw [decode_of_row hrow]
    refine iff_of_false (fun h => skipOperands_ne_unknownOpcode ops rest ?_) (by simp)
    rw [← hbuilt.parse_snd, h]
    rfl

/-! ### The obligations -/

/-- Settles O1: each word's first byte selects its row, whose format reads the others. -/
theorem specWordsDecode : Obligations.SpecWordsDecode :=
  ⟨rfl, rfl, rfl, rfl, rfl, rfl⟩

/-- Settles O2: the opcode byte selects the row whose format builds the instruction (`row_of_instr`), and that format answers it on its
operands' bytes (`Built.parse_encoded`). -/
theorem decodeOfEncodeIsTheInstruction : Obligations.DecodeOfEncodeIsTheInstruction :=
  fun _ rest hlegal => decode_encode rest hlegal

/-- Settles O3: the row that the opcode byte selects builds instructions with that opcode (`built_of_row`), so `Built.of_parse` tells the
bytes. -/
theorem encodeOfDecodeIsTheBytes : Obligations.EncodeOfDecodeIsTheBytes := by
  intro bs rest i h
  obtain ⟨hbytes, hlegal⟩ := decode_inv h
  exact ⟨hbytes, encode_length i, hlegal⟩

/-- Settles O4: a format fails where its operands cannot be read past, cut short (`decode_take`) or at an illegal base (`decode_illegal`). -/
theorem decodeRefusals : Obligations.DecodeRefusals := by
  refine ⟨rfl, decode_unknownOpcode_iff, ?cut, ?illegal, fun i k _ hk => decode_take hk⟩
  case cut => exact fun i k hlegal hk => decode_take (by rwa [bytesRead_of_legal hlegal])
  case illegal =>
    intro i rest hillegal
    have hwhole : encode i ++ rest = (encode i).take (bytesRead i) ++ ((encode i).drop (bytesRead i) ++ rest) := by
      rw [← List.append_assoc, List.take_append_drop]
    exact ⟨decode_illegal rest hillegal, hwhole ▸ decode_illegal _ hillegal⟩

end Sys2Proof.Machine
end


section
/-! PROOFS. What one instruction and one step can do (60_exceptions R472, R475), said once, and the statements that follow from it: O5, O7,
O8, O51 to O54. -/

namespace Sys2Proof.Machine

/-! ### One instruction -/

/-- Everything an instruction can do: complete as its handler says, return from a trap, raise from the state before it, or take the
system-call trap (60_exceptions R472). -/
inductive InstrEffect (i : Instr) (s : State) : State → Prop where
  | completes {t : State} (hi : i ≠ .iret) (h : HandlerEffect (writesFlags i) s t) : InstrEffect i s t.clearError
  | returns {t : State} (hi : i = .iret) (hsup : s.supervisor = true) (h : returnFromTrap s = .ok t) : InstrEffect i s t.clearError
  | raises (e : Exc) : InstrEffect i s (takeException e s)
  | traps (huser : s.supervisor = false) : InstrEffect i s (svcEntry s)

/-- Every instruction answers a next state, and that is one of the four. -/
theorem exec_effect (i : Instr) (s : State) : ∃ t, exec i s = .next t ∧ InstrEffect i s t := by
  by_cases hiret : i = .iret
  · subst hiret
    have hexec : exec .iret s = conclude s (trapReturn s) := rfl
    cases hsup : s.supervisor with
    | false =>
      have hraise : trapReturn s = .error .illegalInstruction := by
        simp only [trapReturn, requireSupervisor, hsup]
        rfl
      exact ⟨_, by rw [hexec, hraise, conclude_error], .raises _⟩
    | true =>
      have hreturn : trapReturn s = returnFromTrap s := by
        simp only [trapReturn, requireSupervisor_ok hsup]
        rfl
      cases hr : returnFromTrap s with
      | ok t => exact ⟨_, by rw [hexec, hreturn, hr, conclude_ok], .returns rfl hsup hr⟩
      | error e => exact ⟨_, by rw [hexec, hreturn, hr, conclude_error], .raises e⟩
  · by_cases hsvc : i = .svc
    · subst hsvc
      cases hsup : s.supervisor with
      | false => exact ⟨_, congrArg Host.Outcome.next (supervisorCall_user hsup), .traps hsup⟩
      | true => exact ⟨_, congrArg Host.Outcome.next (by simp [supervisorCall, hsup]), .raises .illegalInstruction⟩
    · obtain ⟨f, hexec, hhandler⟩ := exec_handler i hiret hsvc
      cases hf : f s with
      | ok t => exact ⟨_, by rw [hexec, hf, conclude_ok], .completes hiret (handler_effect hhandler s t hf)⟩
      | error e => exact ⟨_, by rw [hexec, hf, conclude_error], .raises e⟩

theorem exec_next {i : Instr} {s t : State} (h : exec i s = .next t) : InstrEffect i s t := by
  obtain ⟨t', ht', heffect⟩ := exec_effect i s
  cases ht'.symm.trans h
  exact heffect

/-- A trap return leaves memory and the devices (46_system R384). -/
theorem returnFromTrap_ok {s t : State} (h : returnFromTrap s = .ok t) : MemoryKept s t ∧ SameDevices s t := by
  obtain ⟨⟨ip, s₁⟩, h₁, h⟩ := bind_ok h
  obtain ⟨⟨sp, s₂⟩, h₂, h⟩ := bind_ok h
  obtain ⟨⟨sr, s₃⟩, h₃, h⟩ := bind_ok h
  cases pop16_ok h₁
  cases pop16_ok h₂
  cases pop16_ok h₃
  cases h
  exact ⟨.of_eq (by simp) (by simp), by simp [SameDevices]⟩

/-- No instruction changes the parameters or a read-only byte, or spoils the canonical form of memory. -/
theorem InstrEffect.memoryKept {i : Instr} {s t : State} (h : InstrEffect i s t) : MemoryKept s t := by
  cases h with
  | completes _ h => exact h.mem.then rfl rfl
  | returns _ _ h => exact (returnFromTrap_ok h).1.then rfl rfl
  | raises e => exact (TrapEffect.exc e s).mem
  | traps _ => exact (TrapEffect.svc s).mem

/-- An instruction that reports an error has done nothing but put the machine in FAULT (60_exceptions R491, R492). -/
theorem InstrEffect.of_error {i : Instr} {s t : State} {e : Exc} (h : InstrEffect i s t) (he : t.stepError = some e) : t = goToFault e s := by
  cases h with
  | completes | returns => cases he
  | raises e' =>
    rcases takeException_cases e' s with heq | ⟨-, u, -, heq⟩
    · rw [heq] at he ⊢
      cases he
      rfl
    · rw [heq] at he
      cases he
  | traps =>
    rcases svcEntry_cases s with heq | ⟨u, -, heq⟩
    · rw [heq] at he ⊢
      cases he
      rfl
    · rw [heq] at he
      cases he

/-! ### One step -/

/-- What follows an instruction or a trap entry that left `t`. -/
def finished (t : State) : State := if t.stepError = none then recogniseInterrupt (tick t) else t

theorem finishStep_next (t : State) : finishStep (.next t) = .next (finished t) := by
  unfold finishStep finished
  cases herr : t.stepError <;> simp [herr]

/-- `u` is the state after the third phase of a step from `s`: after the instruction, or after the exception of its fetch. -/
def ThirdPhase (s u : State) : Prop :=
  (∃ i, fetchDecode s = .ok i ∧ InstrEffect i s u) ∨ ∃ e, fetchDecode s = .error e ∧ u = takeException e s

/-- A running machine's step is its third phase, then what follows it (60_exceptions R475). -/
theorem step_running {s : State} (hfault : s.faulted = false) (hhalt : s.halted = false) :
    ∃ u, ThirdPhase s u ∧ step s = .next (finished u) := by
  cases hfetch : fetchDecode s with
  | ok i =>
    obtain ⟨u, hexec, heffect⟩ := exec_effect i s
    exact ⟨u, .inl ⟨i, hfetch, heffect⟩, by rw [step_of_fetched hfault hhalt hfetch, hexec, finishStep_next]⟩
  | error e => exact ⟨_, .inr ⟨e, hfetch, rfl⟩, by rw [step_of_fetch_error hfault hhalt hfetch, finishStep_next]⟩

/-- Everything a step can do. -/
theorem step_next {s t : State} (h : step s = .next t) :
    s.faulted = false ∧ ((s.halted = true ∧ t = haltedStep s) ∨ (s.halted = false ∧ ∃ u, ThirdPhase s u ∧ t = finished u)) := by
  cases hfault : s.faulted with
  | true => simp [step, hfault] at h
  | false =>
    refine ⟨rfl, ?_⟩
    cases hhalt : s.halted with
    | true =>
      rw [step_of_halted hfault hhalt] at h
      cases h
      exact .inl ⟨rfl, rfl⟩
    | false =>
      obtain ⟨u, hu, hstep⟩ := step_running hfault hhalt
      rw [hstep] at h
      cases h
      exact .inr ⟨rfl, u, hu, rfl⟩

/-- A tick changes the timer's state and counter and the pending bits, and nothing else (60_exceptions R520). -/
theorem tick_eq (s : State) :
    tick s = { s with tmrState := (tick s).tmrState, tmrCounter := (tick s).tmrCounter, icStatus := (tick s).icStatus } := by
  unfold tick timerTick
  split
  · rfl
  · rfl
  · split <;> rfl
  · rfl

theorem tick_cfg (s : State) : (tick s).cfg = s.cfg := by rw [tick_eq]
theorem tick_mem (s : State) : (tick s).mem = s.mem := by rw [tick_eq]
theorem tick_sr (s : State) : (tick s).sr = s.sr := by rw [tick_eq]
theorem tick_stepError (s : State) : (tick s).stepError = s.stepError := by rw [tick_eq]
theorem tick_supervisor (s : State) : (tick s).supervisor = s.supervisor := supervisor_of_sr (tick_sr s)
theorem tick_ip (s : State) : (tick s).ip = s.ip := by rw [tick_eq]

theorem finished_memoryKept (u : State) : MemoryKept u (finished u) := by
  unfold finished
  split
  · exact (MemoryKept.of_eq (tick_cfg u) (tick_mem u)).trans (TrapEffect.irq _).mem
  · exact .of_eq rfl rfl

/-- No step changes the parameters or a read-only byte, or spoils the canonical form of memory. -/
theorem step_memoryKept {s t : State} (h : step s = .next t) : MemoryKept s t := by
  obtain ⟨-, ⟨-, rfl⟩ | ⟨-, u, hu, rfl⟩⟩ := step_next h
  · have htick : MemoryKept s (tick s.clearError) := .of_eq (tick_cfg _) (tick_mem _)
    exact htick.trans (TrapEffect.irq _).mem
  · refine MemoryKept.trans ?_ (finished_memoryKept u)
    rcases hu with ⟨i, -, heffect⟩ | ⟨e, -, rfl⟩
    · exact heffect.memoryKept
    · exact (TrapEffect.exc e s).mem

/-! ### Modes -/

@[simp] theorem supervisor_goToFault (e : Exc) (s : State) : (goToFault e s).supervisor = s.supervisor := supervisor_setFaulted s true

/-- IP is at one of the three trap vectors (60_exceptions R484). -/
def AtVector (t : State) : Prop := t.ip = 3 ∨ t.ip = 6 ∨ t.ip = 9

/-- An exception that changes the mode goes to its vector. -/
theorem takeException_mode (e : Exc) (s : State) : (takeException e s).supervisor = s.supervisor ∨ AtVector (takeException e s) := by
  rcases takeException_cases e s with h | ⟨-, t, htrap, h⟩ <;> rw [h]
  · exact .inl (supervisor_goToFault e s)
  · exact .inr (.inr (.inr (enterTrap_fields htrap).1))

/-- An SVC that changes the mode goes to its vector. -/
theorem svcEntry_mode (s : State) : (svcEntry s).supervisor = s.supervisor ∨ AtVector (svcEntry s) := by
  rcases svcEntry_cases s with h | ⟨t, htrap, h⟩ <;> rw [h]
  · exact .inl (supervisor_goToFault _ s)
  · exact .inr (.inr (.inl (enterTrap_fields htrap).1))

/-- The interrupt check leaves mode and IP, or goes to its vector. -/
theorem recogniseInterrupt_mode (s : State) :
    ((recogniseInterrupt s).supervisor = s.supervisor ∧ (recogniseInterrupt s).ip = s.ip) ∨ AtVector (recogniseInterrupt s) := by
  rcases recogniseInterrupt_cases s with h | ⟨-, -, -, h | ⟨t, _, htrap, h⟩⟩ <;> rw [h]
  · exact .inl ⟨rfl, rfl⟩
  · exact .inl ⟨supervisor_goToFault _ s, rfl⟩
  · exact .inr (.inl (enterTrap_fields htrap).1)

/-- So does all that follows an instruction. -/
theorem finished_mode (u : State) : ((finished u).supervisor = u.supervisor ∧ (finished u).ip = u.ip) ∨ AtVector (finished u) := by
  unfold finished
  split
  · have h := recogniseInterrupt_mode (tick u)
    rwa [tick_supervisor, tick_ip] at h
  · exact .inl ⟨rfl, rfl⟩

/-- Nothing that follows an instruction leaves supervisor mode. -/
theorem finished_supervisor {u : State} (h : u.supervisor = true) : (finished u).supervisor = true := by
  unfold finished
  split
  · exact (TrapEffect.irq _).sup ((tick_supervisor u).trans h)
  · exact h

/-- An instruction that completes, IRET apart, leaves the mode. -/
theorem HandlerEffect.supervisor {alu : Bool} {s t : State} (h : HandlerEffect alu s t) : t.supervisor = s.supervisor :=
  sup_of_bit (h.sr 15 (by decide) (fun h4 => absurd h4 (by decide)) (fun _ => by decide))

/-- Only IRET leaves supervisor mode. -/
theorem InstrEffect.supervisor {i : Instr} {s t : State} (h : InstrEffect i s t) (hi : i ≠ .iret) (hsup : s.supervisor = true) :
    t.supervisor = true := by
  cases h with
  | completes _ h => exact h.supervisor.trans hsup
  | returns hiret => exact absurd hiret hi
  | raises e => exact (TrapEffect.exc e s).sup hsup
  | traps huser => simp [hsup] at huser

/-- User mode is left for a vector alone. -/
theorem InstrEffect.mode_of_user {i : Instr} {s t : State} (h : InstrEffect i s t) (huser : s.supervisor = false) :
    t.supervisor = s.supervisor ∨ AtVector t := by
  cases h with
  | completes _ h => exact .inl h.supervisor
  | returns _ hsup => simp [huser] at hsup
  | raises e => exact takeException_mode e s
  | traps => exact svcEntry_mode s

/-! ### Stack pointers and SR bits -/

/-- An exception that stays in user mode leaves SSP. -/
theorem takeException_ssp {e : Exc} {s : State} (h : (takeException e s).supervisor = false) : (takeException e s).ssp = s.ssp := by
  rcases takeException_cases e s with heq | ⟨-, t, htrap, heq⟩ <;> rw [heq] at h ⊢
  · rfl
  · rw [supervisor_clearError, (enterTrap_fields htrap).2.1] at h
    cases h

/-- So does an SVC that stays in user mode. -/
theorem svcEntry_ssp {s : State} (h : (svcEntry s).supervisor = false) : (svcEntry s).ssp = s.ssp := by
  rcases svcEntry_cases s with heq | ⟨t, htrap, heq⟩ <;> rw [heq] at h ⊢
  · rfl
  · rw [supervisor_clearError, (enterTrap_fields htrap).2.1] at h
    cases h

/-- A trap, or the step into FAULT, leaves USP. -/
theorem TrapEffect.usp {s t : State} (h : TrapEffect s t) : t.usp = s.usp := by
  obtain ⟨-, -, -, -, husp⟩ := h.gp
  exact husp

theorem HandlerEffect.usp {alu : Bool} {s t : State} (h : HandlerEffect alu s t) (hsup : s.supervisor = true) : t.usp = s.usp := by
  have := h.sp
  rwa [OtherSpSame, if_pos hsup] at this

theorem HandlerEffect.ssp {alu : Bool} {s t : State} (h : HandlerEffect alu s t) (huser : s.supervisor = false) : t.ssp = s.ssp := by
  have := h.sp
  rwa [OtherSpSame, if_neg (by simp [huser])] at this

/-- Supervisor-mode instructions other than IRET leave USP (10_state R35). -/
theorem InstrEffect.usp_of_supervisor {i : Instr} {s t : State} (h : InstrEffect i s t) (hsup : s.supervisor = true) (hi : i ≠ .iret) :
    t.usp = s.usp := by
  cases h with
  | completes _ h => exact h.usp hsup
  | returns hiret => exact absurd hiret hi
  | raises e => exact (TrapEffect.exc e s).usp
  | traps => exact (TrapEffect.svc s).usp

/-- User-mode instructions that stay in user mode leave SSP (10_state R35). -/
theorem InstrEffect.ssp_of_user {i : Instr} {s t : State} (h : InstrEffect i s t) (huser : s.supervisor = false)
    (ht : t.supervisor = false) : t.ssp = s.ssp := by
  cases h with
  | completes _ h => exact h.ssp huser
  | returns _ hsup => simp [huser] at hsup
  | raises e => exact takeException_ssp ht
  | traps => exact svcEntry_ssp ht

/-- User-mode instructions that enter supervisor mode leave USP: it stands in the frame (60_exceptions R486). -/
theorem InstrEffect.usp_of_trap {i : Instr} {s t : State} (h : InstrEffect i s t) (huser : s.supervisor = false)
    (ht : t.supervisor = true) : t.usp = s.usp := by
  cases h with
  | completes _ h =>
    rw [supervisor_clearError, h.supervisor, huser] at ht
    cases ht
  | returns _ hsup => simp [huser] at hsup
  | raises e => exact (TrapEffect.exc e s).usp
  | traps => exact (TrapEffect.svc s).usp

/-- The bits of SR other than HALT, FAULT, IRQMASK and SUPERVISOR change by the instructions that write flags and by IRET alone
(10_state R44, R49). -/
theorem InstrEffect.sr_bit {i : Instr} {s t : State} (h : InstrEffect i s t) (hi : i ≠ .iret) {n : Nat} (hn : n ∉ [0, 1, 4, 15])
    (hflags : writesFlags i = true → n ∉ [2, 3]) : t.sr.getLsbD n = s.sr.getLsbD n := by
  cases h with
  | completes _ h =>
    obtain ⟨h0, -, h4, -⟩ : n ≠ 0 ∧ n ≠ 1 ∧ n ≠ 4 ∧ n ≠ 15 := by simpa using hn
    exact h.sr n h0 (fun h => absurd h h4) hflags
  | returns hiret => exact absurd hiret hi
  | raises e => exact (TrapEffect.exc e s).sr n hn
  | traps => exact (TrapEffect.svc s).sr n hn

/-! ### The read-only cells -/

/-- A cell is read-only exactly in a read-only region, both ends included (20_memory R82). -/
theorem permAt_ro_iff (c : Config) (x : Int) :
    Config.permAt c x = .ro ↔ ∃ r ∈ c.regions, r.perm = .ro ∧ (r.start : Int) ≤ x ∧ x ≤ (r.stop : Int) := by
  simp only [Config.permAt, ite_eq_left_iff, List.any_eq_true, Bool.and_eq_true, decide_eq_true_eq, reduceCtorEq, imp_false, not_not, and_assoc]

/-! ### The obligations -/

/-- Settles O5: the third phase is the instruction, and what follows it is the tick and the check unless it reports an error. -/
theorem stepRunsTheDecodedInstruction : Obligations.StepRunsTheDecodedInstruction := by
  intro s t i rest hfault hhalt hdecode hexec
  have hfetch : fetchDecode s = .ok i := by simp only [fetchDecode, hdecode]
  rw [step_of_fetched hfault hhalt hfetch, hexec, finishStep_next]
  rfl

/-- Settles O7: the two branches of `step` before the fetch. -/
theorem stepWhenNotRunning : Obligations.StepWhenNotRunning :=
  ⟨fun s hfault => by simp [step, hfault], fun _ hfault hhalt => step_of_halted hfault hhalt⟩

/-- Settles O8: every instruction has an effect (`exec_effect`), and a step outside FAULT is the halted one or the running one. -/
theorem stepNeverSticks : Obligations.StepNeverSticks := by
  refine ⟨fun i s => ?_, fun s hfault => ?_⟩
  · obtain ⟨t, ht, -⟩ := exec_effect i s
    exact ⟨t, ht⟩
  · cases hhalt : s.halted with
    | true => exact ⟨_, step_of_halted hfault hhalt⟩
    | false =>
      obtain ⟨u, -, hstep⟩ := step_running hfault hhalt
      exact ⟨_, hstep⟩

/-- Settles O51: every part of a step keeps the parameters and the read-only bytes (`step_memoryKept`). -/
theorem stepKeepsReadOnlyMemory : Obligations.StepKeepsReadOnlyMemory :=
  ⟨permAt_ro_iff, fun _ _ h => ⟨(step_memoryKept h).cfg, (step_memoryKept h).ro⟩⟩

/-- Settles O52: of the parts of a step only IRET leaves supervisor mode (`InstrEffect.supervisor`), and each that leaves user mode ends at a
vector (`InstrEffect.mode_of_user`, `finished_mode`). -/
theorem modeChangesOnlyByTrapAndIret : Obligations.ModeChangesOnlyByTrapAndIret := by
  intro s t hstep
  obtain ⟨-, ⟨-, rfl⟩ | ⟨hhalt, u, hu, rfl⟩⟩ := step_next hstep
  case inl =>
    have hmode : (tick s.clearError).supervisor = s.supervisor := tick_supervisor _
    refine ⟨fun hsup ht => ?_, fun huser ht => ?_⟩
    · rw [haltedStep, (TrapEffect.irq _).sup (hmode.trans hsup)] at ht
      cases ht
    · rcases recogniseInterrupt_mode (tick s.clearError) with ⟨hsame, -⟩ | hvector
      · rw [haltedStep, hsame, hmode, huser] at ht
        cases ht
      · exact hvector
  case inr =>
    refine ⟨fun hsup ht => ⟨hhalt, ?_⟩, fun huser ht => ?_⟩
    · by_contra hiret
      have husup : u.supervisor = true := by
        rcases hu with ⟨i, hfetch, heffect⟩ | ⟨e, -, rfl⟩
        · exact heffect.supervisor (fun hi => hiret (hi ▸ hfetch)) hsup
        · exact (TrapEffect.exc e s).sup hsup
      rw [finished_supervisor husup] at ht
      cases ht
    · rcases finished_mode u with ⟨hsame, hip⟩ | hvector
      · have hmode : u.supervisor = s.supervisor ∨ AtVector u := by
          rcases hu with ⟨i, -, heffect⟩ | ⟨e, -, rfl⟩
          · exact heffect.mode_of_user huser
          · exact takeException_mode e s
        rcases hmode with hmode | hvector
        · rw [hsame, hmode, huser] at ht
          cases ht
        · rwa [AtVector, ← hip] at hvector
      · exact hvector

/-- Settles O53: each clause is what the four effects of an instruction leave of that register. -/
theorem stackPointersAreIndependent : Obligations.StackPointersAreIndependent := by
  intro i s t hexec
  have heffect := exec_next hexec
  refine ⟨heffect.usp_of_supervisor, heffect.ssp_of_user, heffect.usp_of_trap, fun hi n hlow hhigh => heffect.sr_bit hi ?_ (fun _ => ?_)⟩
  · simp only [List.mem_cons, List.not_mem_nil, or_false]
    omega
  · simp only [List.mem_cons, List.not_mem_nil, or_false]
    omega

/-- Settles O54: of the four effects only a handler that writes flags and IRET's reach the bits 2 and 3, and a trap reaches neither. -/
theorem flagsAreWrittenByTheAluAndIret : Obligations.FlagsAreWrittenByTheAluAndIret := by
  intro i s t hexec
  refine ⟨fun ⟨hflags, hi⟩ => ?_, fun e heq => ?_⟩
  · have hno : ∀ n, writesFlags i = true → n ∉ [2, 3] := fun _ h => absurd h (by simp [hflags])
    exact ⟨(exec_next hexec).sr_bit hi (by decide) (hno 2), (exec_next hexec).sr_bit hi (by decide) (hno 3)⟩
  · rw [heq]
    exact ⟨(TrapEffect.exc e s).sr 2 (by decide), (TrapEffect.exc e s).sr 3 (by decide)⟩

end Sys2Proof.Machine
end


section
/-! PROOFS. The timer (60_exceptions R520 to R523), the invariant of the machine and the end of a run, and the statements O46 to O49 and O56. -/

namespace Sys2Proof.Machine

/-! ### The tick in each state of the timer -/

theorem tick_of_reset {s : State} (h : s.tmrState = .reset) : tick s = s := by simp [tick, timerTick, h]

theorem tick_of_preloaded {s : State} (h : s.tmrState = .preloaded) : tick s = { s with tmrState := .running } := by
  simp [tick, timerTick, h]

theorem tick_of_running_last {s : State} (h : s.tmrState = .running) (h1 : s.tmrCounter = 1) :
    tick s = { s with tmrCounter := 0, tmrState := .depleted, icStatus := s.icStatus ||| 0x0002 } := by
  simp [tick, timerTick, h, h1, setBit, timerIrqLine, BitVec.twoPow]

theorem tick_of_running {s : State} (h : s.tmrState = .running) (h1 : s.tmrCounter ≠ 1) :
    tick s = { s with tmrCounter := s.tmrCounter - 1 } := by
  have hne : ¬ s.tmrCounter - 1 = 0 := by bv_omega
  simp only [tick, timerTick, h, if_neg hne]

theorem tick_of_depleted {s : State} (h : s.tmrState = .depleted) : tick s = { s with tmrCounter := s.tmrPreload, tmrState := .running } := by
  simp [tick, timerTick, h]

/-- A tick leaves the pending bits, or sets line 1's in the step that depletes the timer (60_exceptions R523). -/
theorem tick_icStatus (s : State) :
    (tick s).icStatus = s.icStatus ∨ ((tick s).tmrState = .depleted ∧ (tick s).icStatus = s.icStatus ||| 0x0002) := by
  cases h : s.tmrState with
  | reset => exact .inl (by rw [tick_of_reset h])
  | preloaded => exact .inl (by rw [tick_of_preloaded h])
  | depleted => exact .inl (by rw [tick_of_depleted h])
  | running =>
    by_cases h1 : s.tmrCounter = 1
    · exact .inr (by rw [tick_of_running_last h h1]; exact ⟨rfl, rfl⟩)
    · exact .inl (by rw [tick_of_running h h1])

/-- After a tick the timer is not PRELOADED (60_exceptions R523). -/
theorem tick_ne_preloaded (s : State) : (tick s).tmrState ≠ .preloaded := by
  cases h : s.tmrState with
  | reset => simp [tick_of_reset h, h]
  | preloaded => simp [tick_of_preloaded h]
  | depleted => simp [tick_of_depleted h]
  | running =>
    by_cases h1 : s.tmrCounter = 1
    · simp [tick_of_running_last h h1]
    · simp [tick_of_running h h1, h]

/-- The ticks of one period before its last: the counter alone falls. -/
theorem tick_iterate_running {s : State} (hrun : s.tmrState = .running) (hcount : s.tmrCounter = s.tmrPreload) (k : Nat)
    (hk : k < s.tmrPreload.toNat) : tick^[k] s = { s with tmrCounter := s.tmrPreload - BitVec.ofNat 16 k } := by
  induction k with
  | zero =>
    have hfirst : s.tmrPreload - BitVec.ofNat 16 0 = s.tmrCounter := by simp [hcount]
    rw [hfirst]
    rfl
  | succ k ih =>
    have hne : s.tmrPreload - BitVec.ofNat 16 k ≠ 1 := by bv_omega
    have hnext : s.tmrPreload - BitVec.ofNat 16 k - 1 = s.tmrPreload - BitVec.ofNat 16 (k + 1) := by bv_omega
    rw [Function.iterate_succ_apply', ih (by omega), tick_of_running (s := { s with tmrCounter := s.tmrPreload - BitVec.ofNat 16 k }) hrun hne]
    simp only [hnext]

/-- The last tick of a period depletes the timer. -/
theorem tick_iterate_depleted {s : State} (hrun : s.tmrState = .running) (hcount : s.tmrCounter = s.tmrPreload) (hpos : s.tmrPreload ≠ 0) :
    tick^[s.tmrPreload.toNat] s = { s with tmrCounter := 0, tmrState := .depleted, icStatus := s.icStatus ||| 0x0002 } := by
  obtain ⟨p, hp⟩ : ∃ p, s.tmrPreload.toNat = p + 1 := Nat.exists_eq_succ_of_ne_zero (fun h => hpos (BitVec.eq_of_toNat_eq h))
  have hone : s.tmrPreload - BitVec.ofNat 16 p = 1 := by bv_omega
  rw [hp, Function.iterate_succ_apply', tick_iterate_running hrun hcount p (by omega),
    tick_of_running_last (s := { s with tmrCounter := s.tmrPreload - BitVec.ofNat 16 p }) hrun hone]

/-! ### The devices' part of the invariant -/

/-- The part of `State.Inv` that speaks of the devices and holds inside a step too, where the timer may be PRELOADED. -/
structure DevicesInv (s : State) : Prop where
  extIoDeclared : s.extIo.map Prod.fst = s.cfg.extIo.map ExtIoReg.addr
  timerStopped : s.tmrState = .reset → s.tmrPreload = 0 ∧ s.tmrCounter = 0
  timerDepleted : s.tmrState = .depleted → s.tmrCounter = 0
  levelPending : s.icLevel &&& s.icStatus = s.icLevel

theorem State.Inv.devices {s : State} (h : s.Inv) : DevicesInv s := ⟨h.extIoDeclared, h.timerStopped, h.timerDepleted, h.levelPending⟩

theorem DevicesInv.of_same {s t : State} (h : DevicesInv s) (hsame : SameDevices s t) : DevicesInv t := by
  obtain ⟨hcfg, -, hstatus, hlevel, -, htmr, hpre, hcount, hext⟩ := hsame
  refine ⟨?_, ?_, ?_, ?_⟩
  · rw [hext, hcfg]; exact h.extIoDeclared
  · rw [htmr, hpre, hcount]; exact h.timerStopped
  · rw [htmr, hcount]; exact h.timerDepleted
  · rw [hlevel, hstatus]; exact h.levelPending

/-- A further pending bit leaves every asserted line pending. -/
theorem levelPending_or {level status : Word} (h : level &&& status = level) (w : Word) : level &&& (status ||| w) = level := by
  apply BitVec.eq_of_getLsbD_eq
  intro n hn
  have := congrArg (·.getLsbD n) h
  simp only [BitVec.getLsbD_and, BitVec.getLsbD_or] at this ⊢
  cases hl : level.getLsbD n <;> simp_all

/-- After an acknowledgement every asserted line is pending again (60_exceptions R500). -/
theorem levelPending_acknowledge (level w : Word) : level &&& (w ||| level) = level := by
  rw [BitVec.or_comm]
  exact levelPending_or BitVec.and_self w

/-- A write to an I/O register is one of four. -/
theorem ioWrite_some {s u : State} {x v : Word} (h : ioWrite s x v = some u) :
    u = { s with icMask := v } ∨ u = acknowledge s v ∨ u = preloadTimer s v ∨ u = { s with extIo := extStore s.extIo x v } := by
  unfold ioWrite at h
  split at h
  · cases h; exact .inl rfl
  split at h
  · cases h
  split at h
  · cases h; exact .inr (.inl rfl)
  split at h
  · cases h; exact .inr (.inr (.inl rfl))
  split at h
  · cases h
  split at h
  · split at h
    · cases h
    · cases h; exact .inr (.inr (.inr rfl))
  · cases h

theorem DevicesInv.ioWrite {s u : State} {x v : Word} (h : DevicesInv s) (hw : ioWrite s x v = some u) : DevicesInv u := by
  rcases ioWrite_some hw with rfl | rfl | rfl | rfl
  · exact ⟨h.extIoDeclared, h.timerStopped, h.timerDepleted, h.levelPending⟩
  · exact ⟨h.extIoDeclared, h.timerStopped, h.timerDepleted, levelPending_acknowledge _ _⟩
  · exact ⟨h.extIoDeclared, nofun, nofun, h.levelPending⟩
  · exact ⟨(extStore_keys _ _ _).trans h.extIoDeclared, h.timerStopped, h.timerDepleted, h.levelPending⟩

theorem DevicesInv.tick {s : State} (h : DevicesInv s) : DevicesInv (tick s) := by
  cases hstate : s.tmrState with
  | reset => rwa [tick_of_reset hstate]
  | preloaded =>
    rw [tick_of_preloaded hstate]
    exact ⟨h.extIoDeclared, nofun, nofun, h.levelPending⟩
  | depleted =>
    rw [tick_of_depleted hstate]
    exact ⟨h.extIoDeclared, nofun, nofun, h.levelPending⟩
  | running =>
    by_cases hlast : s.tmrCounter = 1
    · rw [tick_of_running_last hstate hlast]
      exact ⟨h.extIoDeclared, nofun, fun _ => rfl, levelPending_or h.levelPending _⟩
    · rw [tick_of_running hstate hlast]
      exact ⟨h.extIoDeclared, fun h => absurd (hstate.symm.trans h) nofun, fun h => absurd (hstate.symm.trans h) nofun, h.levelPending⟩

/-- Every instruction keeps it. -/
theorem InstrEffect.devicesInv {i : Instr} {s t : State} (h : InstrEffect i s t) (hs : DevicesInv s) : DevicesInv t := by
  cases h with
  | completes _ h =>
    rcases h.dev with hsame | ⟨-, x, u, hw, hsame⟩
    · exact hs.of_same hsame
    · exact (hs.ioWrite hw).of_same hsame
  | returns _ _ h => exact hs.of_same (returnFromTrap_ok h).2
  | raises e => exact hs.of_same (TrapEffect.exc e s).dev
  | traps => exact hs.of_same (TrapEffect.svc s).dev

/-! ### Errors and FAULT -/

/-- An error report stands only in FAULT (60_exceptions R491, R492; log 4). -/
def ErrorInFault (s : State) : Prop := s.stepError ≠ none → s.faulted = true

theorem InstrEffect.errorInFault {i : Instr} {s t : State} (h : InstrEffect i s t) : ErrorInFault t := by
  intro herr
  obtain ⟨e, he⟩ := Option.ne_none_iff_exists'.mp herr
  rw [h.of_error he]
  exact faulted_goToFault e s

/-- The interrupt check reports an error only when it goes to FAULT. -/
theorem recogniseInterrupt_errorInFault {s : State} (h : s.stepError = none) : ErrorInFault (recogniseInterrupt s) := by
  intro herr
  rcases recogniseInterrupt_cases s with heq | ⟨-, -, -, heq | ⟨t, _, htrap, heq⟩⟩ <;> rw [heq] at herr ⊢
  · exact absurd h herr
  · exact faulted_goToFault _ s
  · exact absurd ((enterTrap_fields htrap).2.2.2.trans h) herr

/-! ### The invariant -/

/-- A tick restores the whole invariant from the devices' part. -/
theorem inv_tick {u : State} (hcfg : u.cfg.wf = true) (hmem : Memory.wf u.cfg.memSize u.mem = true) (hdev : DevicesInv u)
    (herr : u.stepError = none) : (tick u).Inv where
  paramsValid := by rwa [tick_cfg]
  memoryCanonical := by rwa [tick_cfg, tick_mem]
  extIoDeclared := hdev.tick.extIoDeclared
  errorInFault := fun h => absurd ((tick_stepError u).trans herr) h
  neverPreloaded := tick_ne_preloaded u
  timerStopped := hdev.tick.timerStopped
  timerDepleted := hdev.tick.timerDepleted
  levelPending := hdev.tick.levelPending

/-- The interrupt check keeps the invariant. -/
theorem State.Inv.recogniseInterrupt {u : State} (h : u.Inv) (herr : u.stepError = none) : (recogniseInterrupt u).Inv := by
  have hkept := (TrapEffect.irq u).mem
  have hsame := (TrapEffect.irq u).dev
  have hdev := h.devices.of_same hsame
  obtain ⟨-, -, -, -, -, htmr, -⟩ := hsame
  exact {
    paramsValid := by rw [hkept.cfg]; exact h.paramsValid
    memoryCanonical := hkept.wf h.memoryCanonical
    extIoDeclared := hdev.extIoDeclared
    errorInFault := recogniseInterrupt_errorInFault herr
    neverPreloaded := by rw [htmr]; exact h.neverPreloaded
    timerStopped := hdev.timerStopped
    timerDepleted := hdev.timerDepleted
    levelPending := hdev.levelPending }

/-- What follows an instruction that left no report: the tick and the interrupt check. -/
theorem inv_recogniseInterrupt_tick {u : State} (hcfg : u.cfg.wf = true) (hmem : Memory.wf u.cfg.memSize u.mem = true) (hdev : DevicesInv u)
    (herr : u.stepError = none) : (recogniseInterrupt (tick u)).Inv :=
  (inv_tick hcfg hmem hdev herr).recogniseInterrupt ((tick_stepError u).trans herr)

/-- The step into FAULT keeps the invariant. -/
theorem State.Inv.goToFault {s : State} (h : s.Inv) (e : Exc) : (goToFault e s).Inv where
  paramsValid := h.paramsValid
  memoryCanonical := h.memoryCanonical
  extIoDeclared := h.extIoDeclared
  errorInFault := fun _ => faulted_goToFault e s
  neverPreloaded := h.neverPreloaded
  timerStopped := h.timerStopped
  timerDepleted := h.timerDepleted
  levelPending := h.levelPending

/-- The third phase of a step either went to FAULT with a report, or left none and kept what the tick needs. -/
theorem ThirdPhase.cases {s u : State} (h : ThirdPhase s u) (hs : DevicesInv s) :
    (∃ e, u = goToFault e s) ∨ (u.stepError = none ∧ MemoryKept s u ∧ DevicesInv u) := by
  have heffect : ∃ i, InstrEffect i s u := by
    rcases h with ⟨i, -, h⟩ | ⟨e, -, rfl⟩
    · exact ⟨i, h⟩
    · exact ⟨.hlt, .raises e⟩
  obtain ⟨i, heffect⟩ := heffect
  cases herr : u.stepError with
  | none => exact .inr ⟨rfl, heffect.memoryKept, heffect.devicesInv hs⟩
  | some e => exact .inl ⟨e, heffect.of_error herr⟩

/-- The power-on state under valid parameters. -/
theorem inv_powerOn {c : Config} (h : c.wf = true) : (powerOn c).Inv where
  paramsValid := h
  memoryCanonical := Memory.wf_nil _
  extIoDeclared := by simp [powerOn, Function.comp_def]
  errorInFault := fun h => absurd rfl h
  neverPreloaded := by simp [powerOn]
  timerStopped := fun _ => ⟨rfl, rfl⟩
  timerDepleted := nofun
  levelPending := by simp [powerOn]

/-! ### The end of a run (70_reset_and_hazards R580) -/

/-- The lines that are pending, or can become so without the host, are the same after a tick. -/
theorem tick_pendingLines (s : State) : (tick s).icStatus ||| (tick s).timerLine = s.icStatus ||| s.timerLine := by
  cases h : s.tmrState with
  | reset => rw [tick_of_reset h]
  | preloaded => simp [tick_of_preloaded h, State.timerLine, h]
  | depleted => simp [tick_of_depleted h, State.timerLine, h]
  | running =>
    by_cases h1 : s.tmrCounter = 1
    · simp [tick_of_running_last h h1, State.timerLine, h, BitVec.or_assoc, timerIrqLine, BitVec.twoPow]
    · simp [tick_of_running h h1, State.timerLine, h]

/-- A tick neither ends a run nor wakes an ended one. -/
theorem tick_endedNormally (s : State) : (tick s).endedNormally = s.endedNormally := by
  have hmask : (tick s).icMask = s.icMask := by rw [tick_eq]
  simp only [State.endedNormally, State.halted, State.irqEnabled, tick_sr, tick_pendingLines, hmask]

/-- In an ended run the interrupt check has nothing to do. -/
theorem recogniseInterrupt_of_ended {s : State} (h : s.endedNormally = true) : recogniseInterrupt s = s := by
  refine recogniseInterrupt_of_not_taken (.inr ?_)
  simp only [State.endedNormally, Bool.and_eq_true, Bool.or_eq_true, Bool.not_eq_true', decide_eq_true_eq] at h
  obtain ⟨-, hen | hlines⟩ := h
  · exact .inr hen
  · left
    rw [BitVec.and_or_distrib_left] at hlines
    obtain ⟨hpending, -⟩ := BitVec.or_eq_zero_iff.mp hlines
    rwa [BitVec.and_comm]

/-! ### The obligations -/

/-- Settles O47, by induction on the ticks (`tick_iterate_running`); the tick after the last reloads the counter. -/
theorem timerPeriod : Obligations.TimerPeriod := by
  intro s hrun hcount hpos
  refine ⟨tick_iterate_running hrun hcount, tick_iterate_depleted hrun hcount hpos, ?_⟩
  rw [Function.iterate_succ_apply', tick_iterate_depleted hrun hcount hpos, tick_of_depleted rfl]
  simp only [← hcount, ← hrun]

/-- Settles O48: the default parameters are valid. -/
theorem invariantAtReset : Obligations.InvariantAtReset := inv_powerOn (by decide)

/-- Settles O49: a halted step, and one whose third phase left no report, end with the tick and the check
(`inv_recogniseInterrupt_tick`); one that left a report only went to FAULT. -/
theorem stepKeepsTheInvariant : Obligations.StepKeepsTheInvariant := by
  intro s t hs hstep
  obtain ⟨-, ⟨-, rfl⟩ | ⟨-, u, hu, rfl⟩⟩ := step_next hstep
  · have hclear : DevicesInv s.clearError := hs.devices.of_same (SameDevices.refl _)
    exact inv_recogniseInterrupt_tick hs.paramsValid hs.memoryCanonical hclear rfl
  · rcases hu.cases hs.devices with ⟨e, rfl⟩ | ⟨herr, hkept, hdev⟩
    · have hfinished : finished (goToFault e s) = goToFault e s := by simp [finished]
      rw [hfinished]
      exact hs.goToFault e
    · rw [finished, if_pos herr]
      exact inv_recogniseInterrupt_tick (by rw [hkept.cfg]; exact hs.paramsValid) (hkept.wf hs.memoryCanonical) hdev herr

/-- Settles O56: an ended run stays ended under a tick, whose check then has nothing to do, so a step is the tick. -/
theorem endedRunStaysEnded : Obligations.EndedRunStaysEnded := by
  intro s _ hfault hended
  have hended' : (tick s.clearError).endedNormally = true := (tick_endedNormally _).trans hended
  have hhalt : s.halted = true := by
    simp only [State.endedNormally, Bool.and_eq_true] at hended
    exact hended.1
  have hstep : step s = .next (tick s.clearError) := by
    rw [step_of_halted hfault hhalt, haltedStep, recogniseInterrupt_of_ended hended']
  refine ⟨_, hstep, hended', ?_, by rw [tick_eq]; rfl, tick_icStatus s.clearError, tick_eq s.clearError⟩
  rw [State.faulted, tick_sr]
  exact hfault

end Sys2Proof.Machine

namespace Sys2Proof

open Machine

/-- Settles O46: one equation for each state of the timer. -/
theorem timerTick : Obligations.TimerTick :=
  fun _ => ⟨tick_of_reset, tick_of_preloaded, tick_of_running_last, tick_of_running, tick_of_depleted⟩

end Sys2Proof
end


section
/-! PROOFS. The host's entry points (70_reset_and_hazards R560 to R564) and the assembler's emission (49_assembler R440 to R442): the
statements O50 and O58 to O60. -/

namespace Sys2Proof.Machine

/-! ### Bytes put in memory by the host (20_memory R105) -/

/-- Putting bytes in memory changes nothing but memory. -/
theorem pokeAll_eq (vs : List Byte) (x : Nat) (s : State) : pokeAll vs x s = { s with mem := (pokeAll vs x s).mem } := by
  induction vs generalizing x s with
  | nil => rfl
  | cons v vs ih =>
    simp only [pokeAll]
    split
    · exact ih (x + 1) (s.poke x v)
    · exact ih (x + 1) s

/-- It keeps the canonical form: what would fall outside memory is dropped. -/
theorem pokeAll_wf (vs : List Byte) (x : Nat) (s : State) (h : Memory.wf s.cfg.memSize s.mem = true) :
    Memory.wf s.cfg.memSize (pokeAll vs x s).mem = true := by
  induction vs generalizing x s with
  | nil => exact h
  | cons v vs ih =>
    simp only [pokeAll]
    split
    · next hx => exact ih (x + 1) (s.poke x v) (Memory.wf_write _ _ _ _ h (by simpa using hx))
    · exact ih (x + 1) s h

/-- It leaves every other address. -/
theorem pokeAll_read_outside (vs : List Byte) (x : Nat) (s : State) (k : Nat) (hk : k < x ∨ x + vs.length ≤ k) :
    (pokeAll vs x s).mem.read k = s.mem.read k := by
  induction vs generalizing x s with
  | nil => rfl
  | cons v vs ih =>
    simp only [List.length_cons] at hk
    simp only [pokeAll]
    rw [ih (x + 1) _ (by omega)]
    split
    · rw [State.poke_mem, Int.toNat_natCast, Memory.read_write_other _ _ _ _ (by omega)]
    · rfl

/-- Where all the bytes lie inside memory, each stands at its address. -/
theorem pokeAll_read_inside (vs : List Byte) (x : Nat) (s : State) (hx : x + vs.length ≤ s.cfg.memSize) (k : Nat) (hk : k < vs.length) :
    (pokeAll vs x s).mem.read (x + k) = vs[k] := by
  induction vs generalizing x s k with
  | nil => exact absurd hk (Nat.not_lt_zero k)
  | cons v vs ih =>
    simp only [List.length_cons] at hx hk
    simp only [pokeAll, if_pos (show x < s.cfg.memSize by omega)]
    cases k with
    | zero =>
      rw [pokeAll_read_outside _ _ _ _ (by omega), State.poke_mem, Int.toNat_natCast, Nat.add_zero, Memory.read_write_same]
      rfl
    | succ k =>
      rw [show x + (k + 1) = x + 1 + k by omega]
      exact ih (x + 1) _ (by simpa using (by omega : x + 1 + vs.length ≤ s.cfg.memSize)) k (by omega)

/-! ### The line calls (60_exceptions R501) -/

/-- Where no report stands there is none to clear. -/
theorem clearError_of_none {s : State} (h : s.stepError = none) : s.clearError = s := by
  rw [State.clearError, ← h]

/-- In FAULT, and for a line above 15, a line call changes nothing. -/
theorem lineCall_refused {move : State → State} {n : Nat} {s : State} (h : s.faulted = true ∨ 16 ≤ n) : (lineCall move n s).1 = s := by
  unfold lineCall
  split
  · rfl
  · next hfault =>
    rcases h with h | h
    · exact absurd h hfault
    · rw [if_pos (by omega)]

theorem twoPow_eq_ofNat (n : Nat) : BitVec.twoPow 16 n = BitVec.ofNat 16 (2 ^ n) := by
  apply BitVec.eq_of_toNat_eq
  rw [BitVec.toNat_twoPow, BitVec.toNat_ofNat]

theorem setBit_true (w : Word) (n : Nat) : setBit w n true = w ||| BitVec.ofNat 16 (2 ^ n) := by
  rw [← twoPow_eq_ofNat]
  rfl

theorem setBit_false (w : Word) (n : Nat) : setBit w n false = w &&& ~~~ BitVec.ofNat 16 (2 ^ n) := by
  rw [← twoPow_eq_ofNat]
  rfl

/-- A line call keeps the invariant when what it does to the line keeps the asserted lines pending. -/
theorem State.Inv.lineCall {s : State} (h : s.Inv) {move : State → State} {n : Nat}
    (hmove : ∀ u : State, u.Inv → (move u).Inv ∧ (move u).stepError = u.stepError) : (lineCall move n s).1.Inv := by
  unfold Machine.lineCall
  split
  · exact h
  split
  · exact h
  · have hclear : s.clearError.Inv :=
      ⟨h.paramsValid, h.memoryCanonical, h.extIoDeclared, fun h => absurd rfl h, h.neverPreloaded, h.timerStopped, h.timerDepleted,
        h.levelPending⟩
    obtain ⟨hinv, herr⟩ := hmove _ hclear
    exact hinv.recogniseInterrupt herr

/-- The invariant asks of the level and pending bits only that every asserted line is pending. -/
theorem State.Inv.withLines {s : State} (h : s.Inv) {level status : Word} (hpending : level &&& status = level) :
    State.Inv { s with icLevel := level, icStatus := status } :=
  { h with levelPending := hpending }

/-- A line that becomes asserted and pending at once. -/
theorem levelPending_both {level status : Word} (h : level &&& status = level) (w : Word) : (level ||| w) &&& (status ||| w) = level ||| w := by
  apply BitVec.eq_of_getLsbD_eq
  intro n _
  have := congrArg (·.getLsbD n) h
  simp only [BitVec.getLsbD_and, BitVec.getLsbD_or] at this ⊢
  cases hl : level.getLsbD n <;> simp_all

theorem State.Inv.assertLine {s : State} (h : s.Inv) (n : Nat) : (assertLine n s).Inv := by
  refine h.withLines ?_
  rw [setBit_true, setBit_true]
  exact levelPending_both h.levelPending _

theorem State.Inv.releaseLine {s : State} (h : s.Inv) (n : Nat) : (releaseLine n s).Inv := by
  refine h.withLines ?_
  rw [setBit_false, BitVec.and_assoc, BitVec.and_comm (~~~ _), ← BitVec.and_assoc, h.levelPending]

theorem State.Inv.pulseLine {s : State} (h : s.Inv) (n : Nat) : (pulseLine n s).Inv :=
  h.withLines (levelPending_or h.levelPending _)

/-! ### The other calls -/

/-- The invariant depends on memory through its canonical form alone. -/
theorem State.Inv.withMem {s : State} (h : s.Inv) {m : Memory} (hm : Memory.wf s.cfg.memSize m = true) : State.Inv { s with mem := m } :=
  { h with memoryCanonical := hm }

theorem State.Inv.loadImage {s : State} (h : s.Inv) (image : List Byte) : (loadImage image s).1.Inv := by
  unfold Machine.loadImage
  split
  · exact h
  · show (pokeAll image 0 s).Inv
    rw [pokeAll_eq]
    exact h.withMem (pokeAll_wf image 0 s h.memoryCanonical)

theorem State.Inv.hostStore {s : State} (h : s.Inv) (x : Int) (v : Byte) : (hostStore x v s).1.Inv := by
  unfold Machine.hostStore
  cases hw : memWrite8 s x v with
  | error e => exact h
  | ok t =>
    obtain ⟨hwritable, rfl⟩ := memWrite8_ok hw
    exact h.withMem ((MemoryKept.poke v hwritable).wf h.memoryCanonical)

theorem State.Inv.hostExtIo {s : State} (h : s.Inv) (x v : Word) : (hostExtIo x v s).1.Inv := by
  unfold Machine.hostExtIo
  split
  · exact { h with extIoDeclared := (extStore_keys _ _ _).trans h.extIoDeclared }
  · exact h

/-! ### Lookup and emission (49_assembler R440 to R442) -/

open Sys2Proof.Laws.EncodingLaw (operandType)

/-- A format's operand types are the types of the operands it builds from. -/
theorem Built.types_eq {op : Byte} {sh : Shape} {ops : List Operand} {i : Instr} (h : Built op sh ops i) : sh.types = ops.map operandType := by
  cases h <;> rfl

/-- The class the assembler gives an operand is the class of its type (49_assembler R436, R440). -/
theorem operandClass_asmOperand (o : Operand) : (asmOperand o).operandClass = classOfType (operandType o) := by
  cases o <;> rfl

theorem wordSlots_toNat (v : Word) : wordSlots v.toNat = .ok [.byte (hiByte v), .byte (loByte v)] := by
  have hle : v.toNat ≤ 65535 := by have := v.isLt; omega
  simp [wordSlots, hle]

/-- An operand is emitted as its encoding (49_assembler R442). -/
theorem emitOperand_asmOperand (line : Nat) (o : Operand) :
    emitOperand line (operandType o) (asmOperand o) = .ok ((encodeOperand o).map Slot.byte) := by
  cases o with
  | r16 | r8 => rfl
  | byte v =>
    have hle : v.toNat ≤ 255 := by have := v.isLt; omega
    simp [emitOperand, operandType, asmOperand, encodeOperand, hle]
  | word v => exact wordSlots_toNat v
  | addr a => exact wordSlots_toNat a
  | regAddr m => simp [emitOperand, operandType, asmOperand, encodeOperand]

theorem emitOperands_asmOperand (line : Nat) (ops : List Operand) :
    emitOperands line (ops.map operandType) (ops.map asmOperand) = .ok ((ops.flatMap encodeOperand).map Slot.byte) := by
  induction ops with
  | nil => rfl
  | cons o os ih =>
    simp only [List.map_cons, emitOperands, emitOperand_asmOperand, ih, List.flatMap_cons, List.map_append]
    rfl

/-- The lookup of the row's own mnemonic and classes answers a row with its opcode; no mnemonic of the map is SRET, the second name of IRET. -/
def findsItsOpcode (row : Row) : Bool :=
  match lookupRow (canonicalMnemonic row.mnemonic) (row.shape.types.map classOfType) with
  | .ok r => r.opcode == row.opcode
  | .error _ => false

theorem registry_findsItsOpcode : registry.all findsItsOpcode = true := by
  simp only [registry, List.all_append, Bool.and_eq_true]
  exact ⟨⟨⟨⟨⟨⟨⟨⟨rfl, rfl⟩, rfl⟩, rfl⟩, rfl⟩, rfl⟩, rfl⟩, rfl⟩, rfl⟩

/-- Lookup finds rows of the map alone. -/
theorem lookupRow_mem {mnemonic : AsmName} {classes : List OperandClass} {row : Row} (h : lookupRow mnemonic classes = .ok row) :
    row ∈ registry := by
  unfold lookupRow at h
  split at h
  · cases h
  · split at h
    · next hfind =>
      cases h
      exact (List.mem_filter.mp (List.mem_of_find?_eq_some hfind)).1
    · cases h

/-- An opcode stands in one row of the map. -/
theorem findRow_of_mem {row : Row} (h : row ∈ registry) : findRow row.opcode registry = some row := by
  obtain ⟨k, hk, rfl⟩ := List.mem_iff_getElem.mp h
  have hopcode : registry[k].opcode.toNat = k := by
    have := List.getElem_map (·.opcode.toNat) (l := registry) (i := k) (h := by simpa using hk)
    simpa [registry_opcodes] using this.symm
  rw [findRow_registry, hopcode, List.getElem?_eq_getElem hk]

/-- The mnemonic of a row and the classes of its operands find the row (49_assembler R440). -/
theorem lookupRow_of_row {op : Byte} {row : Row} (h : findRow op registry = some row) :
    lookupRow (canonicalMnemonic row.mnemonic) (row.shape.types.map classOfType) = .ok row := by
  obtain ⟨hmem, rfl⟩ := findRow_mem h
  have hfinds := List.all_eq_true.mp registry_findsItsOpcode row hmem
  unfold findsItsOpcode at hfinds
  split at hfinds
  · next r hr =>
    have hopcode : r.opcode = row.opcode := beq_iff_eq.mp hfinds
    have hrow := findRow_of_mem (lookupRow_mem hr)
    rw [hopcode, h] at hrow
    cases hrow
    exact hr
  · cases hfinds

/-! ### The obligations -/

/-- Settles O50: `reset()` gives the power-on state of the same parameters, a line call moves its line and then makes the check, and the
others write memory or an `EXT_IO` value. -/
theorem hostCallsKeepTheInvariant : Obligations.HostCallsKeepTheInvariant := by
  intro s call h
  cases call with
  | reset => exact inv_powerOn h.paramsValid
  | raiseLine n => exact h.lineCall (fun _ hu => ⟨hu.assertLine n, rfl⟩)
  | lowerLine n => exact h.lineCall (fun _ hu => ⟨hu.releaseLine n, rfl⟩)
  | triggerLine n => exact h.lineCall (fun _ hu => ⟨hu.pulseLine n, rfl⟩)
  | loadImage image => exact h.loadImage image
  | storeByte x v => exact h.hostStore x v
  | writeExtIo x v => exact h.hostExtIo x v

/-- Settles O58: a refused call changes nothing (`lineCall_refused`); any other is the line's move and the check (`lineCall_of_line`). -/
theorem lineCalls : Obligations.LineCalls := by
  intro s n
  refine ⟨fun h => ⟨lineCall_refused h, lineCall_refused h, lineCall_refused h⟩, fun hfault herr hn => ⟨?raise, ?lower, ?trigger⟩⟩
  all_goals
    refine (lineCall_of_line hfault hn).trans ?_
    rw [clearError_of_none herr]
  case raise => simp only [assertLine, setBit_true]
  case lower => simp only [releaseLine, setBit_false]
  case trigger => simp only [pulseLine, setBit_true]

/-- Settles O59: an image that fits is put in memory from address 0 on (`pokeAll_read_inside`, `pokeAll_read_outside`). -/
theorem loadImageWrites : Obligations.LoadImageWrites := by
  intro s image
  refine ⟨fun hlong => by simp [hostCall, loadImage, hlong], fun hfits => ⟨pokeAll image 0 s, ?_, pokeAll_eq image 0 s, ?_, ?_⟩⟩
  · simp [hostCall, loadImage, Nat.not_lt.mpr hfits]
  · intro k hk
    simpa using pokeAll_read_inside image 0 s (by omega) k hk
  · exact fun k hk => pokeAll_read_outside image 0 s k (.inr (by omega))

/-- Settles O60: the row is found again from its mnemonic and its operands' classes (`lookupRow_of_row`), and each operand is emitted as its
encoding (`emitOperands_asmOperand`). -/
theorem assemblerEmitsTheEncoding : Obligations.AssemblerEmitsTheEncoding := by
  intro i line row hrow
  obtain ⟨row', hrow', hbuilt⟩ := row_of_instr i
  cases hrow.symm.trans hrow'
  have hclasses : (i.operands.map asmOperand).map AsmOperand.operandClass = row.shape.types.map classOfType := by
    simp [hbuilt.types_eq, Function.comp_def, operandClass_asmOperand]
  have hopcode : row.opcode = i.opcode := (findRow_mem hrow).2
  simp only [emitInstruction, hclasses, lookupRow_of_row hrow, bind, Except.bind]
  rw [hbuilt.types_eq, emitOperands_asmOperand, hopcode]
  rfl

end Sys2Proof.Machine
end


section
/-! PROOFS. The fetch (20_memory R90, 30_encoding R124): the bytes the window holds, what they decode to, and the statements O6 and O9. -/

namespace Sys2Proof.Machine

/-! ### The window -/

/-- The stream holds the bytes of memory in order, as far as memory goes (20_memory R90). -/
theorem streamFrom_eq (s : State) (x n : Nat) :
    streamFrom s x n = (List.range (min n (s.cfg.memSize - x))).map (fun k => s.mem.read (x + k)) := by
  induction n generalizing x with
  | zero => simp [streamFrom]
  | succ n ih =>
    simp only [streamFrom]
    split
    · have hmin : min (n + 1) (s.cfg.memSize - x) = min n (s.cfg.memSize - (x + 1)) + 1 := by omega
      rw [ih, hmin, List.range_succ_eq_map, List.map_cons, List.map_map]
      simp [Function.comp_def, Nat.add_assoc, Nat.add_comm 1]
    · simp [show s.cfg.memSize - x = 0 by omega]

theorem fetchWindow_length (s : State) : (fetchWindow s).length = min 5 (s.cfg.memSize - s.ip.toNat) := by
  simp [fetchWindow, streamFrom_eq]

/-- Where memory holds the first `m` bytes of a list at IP, the window starts with them. -/
theorem fetchWindow_take {s : State} {l : List Byte} {m : Nat} (hl : m ≤ l.length) (hw : m ≤ (fetchWindow s).length)
    (hmem : ∀ (k : Nat) (h : k < l.length), k < m → s.mem.read (s.ip.toNat + k) = l[k]) : (fetchWindow s).take m = l.take m := by
  apply List.ext_getElem
  · simp only [List.length_take]
    omega
  · intro k hk hk'
    simp only [List.length_take] at hk'
    simp only [List.getElem_take, fetchWindow, streamFrom_eq, List.getElem_map, List.getElem_range]
    exact hmem k (by omega) (by omega)

/-- Every format has at most four bytes of operands (30_encoding R121). -/
theorem Built.size_le {op : Byte} {sh : Shape} {ops : List Operand} {i : Instr} (h : Built op sh ops i) : (ops.map Operand.size).sum ≤ 4 := by
  cases h <;> simp [Operand.size]

/-- The longest instruction has five bytes (30_encoding R121). -/
theorem encode_length_le (i : Instr) : (encode i).length ≤ 5 := by
  obtain ⟨row, -, hbuilt⟩ := row_of_instr i
  have := hbuilt.size_le
  rw [encode_length, Instr.size]
  omega

/-! ### What it decodes to -/

/-- A window that starts with the first `m` bytes of a list is those bytes and some others. -/
theorem fetchWindow_eq_append {s : State} {l : List Byte} {m : Nat} (hl : m ≤ l.length) (hfits : s.ip.toNat + m ≤ s.cfg.memSize) (hm : m ≤ 5)
    (hmem : ∀ (k : Nat) (h : k < l.length), k < m → s.mem.read (s.ip.toNat + k) = l[k]) :
    ∃ rest, fetchWindow s = l.take m ++ rest := by
  have hw : m ≤ (fetchWindow s).length := by rw [fetchWindow_length]; omega
  exact ⟨(fetchWindow s).drop m, by rw [← fetchWindow_take hl hw hmem, List.take_append_drop]⟩

/-- A window cut short by the end of memory holds the bytes up to there. -/
theorem fetchWindow_eq_take {s : State} {l : List Byte} (hl : s.cfg.memSize - s.ip.toNat ≤ l.length) (hcut : s.cfg.memSize - s.ip.toNat ≤ 5)
    (hmem : ∀ (k : Nat) (h : k < l.length), s.ip.toNat + k < s.cfg.memSize → s.mem.read (s.ip.toNat + k) = l[k]) :
    fetchWindow s = l.take (s.cfg.memSize - s.ip.toNat) := by
  have hw : (fetchWindow s).length = s.cfg.memSize - s.ip.toNat := by rw [fetchWindow_length]; omega
  rw [← fetchWindow_take hl hw.ge (fun k h hk => hmem k h (by omega)), ← hw, List.take_length]

/-- An instruction that runs past the end of memory before its last byte that is read cannot be fetched. -/
theorem decode_fetchWindow_cut {s : State} {i : Instr} (hcut : s.cfg.memSize < s.ip.toNat + bytesRead i)
    (hin : s.ip.toNat < s.cfg.memSize)
    (hmem : ∀ (k : Nat) (h : k < (encode i).length), s.ip.toNat + k < s.cfg.memSize → s.mem.read (s.ip.toNat + k) = (encode i)[k]) :
    decode (fetchWindow s) = .error .fetch := by
  have hread := bytesRead_le i
  have hlen := encode_length_le i
  rw [fetchWindow_eq_take (by omega) (by omega) hmem]
  exact decode_take (by omega)

/-- A step whose window does not decode takes the exception of the reason. -/
theorem step_of_decode_error {s : State} {e : DecodeError} (hfault : s.faulted = false) (hhalt : s.halted = false)
    (h : decode (fetchWindow s) = .error e) : step s = finishStep (.next (takeException (DecodeError.exc e) s)) :=
  step_of_fetch_error hfault hhalt (by simp only [fetchDecode, h])

/-! ### The obligations -/

/-- Settles O6: the window is the encoding and what follows it, and decoding an encoding gives the instruction (`decode_encode`). -/
theorem stepRunsTheInstructionInMemory : Obligations.StepRunsTheInstructionInMemory := by
  intro s i hfault hhalt hlegal hfits hmem
  obtain ⟨rest, hwindow⟩ := fetchWindow_eq_append le_rfl hfits (encode_length_le i) (fun k h _ => hmem k h)
  rw [List.take_length] at hwindow
  exact step_of_fetched hfault hhalt (by simp only [fetchDecode, hwindow, decode_encode rest hlegal])

/-- Settles O9: in each case the window fails to decode, as `decodeRefusals` has it for its bytes. -/
theorem fetchAndDecodeExceptions : Obligations.FetchAndDecodeExceptions := by
  intro s hfault hhalt
  refine ⟨fun hout => ?outside, fun hin hop => ?unknown, fun i hillegal hfits hmem => ?illegal, fun i _ hin hcut hmem => ?illegalCut,
    fun i hlegal hin hcut hmem => ?cut⟩
  case outside =>
    have hwindow : fetchWindow s = [] := List.eq_nil_of_length_eq_zero (by rw [fetchWindow_length]; omega)
    exact step_of_decode_error (e := .fetch) hfault hhalt (by rw [hwindow]; rfl)
  case unknown =>
    obtain ⟨rest, hwindow⟩ := fetchWindow_eq_append (l := [s.mem.read s.ip.toNat]) le_rfl hin (by simp) (by simp)
    exact step_of_decode_error hfault hhalt (by rw [hwindow]; exact (decode_unknownOpcode_iff _ rest).mpr hop)
  case illegal =>
    have hlen := encode_length_le i
    have hread := bytesRead_le i
    obtain ⟨rest, hwindow⟩ := fetchWindow_eq_append hread hfits (by omega) hmem
    exact step_of_decode_error hfault hhalt (by rw [hwindow]; exact decode_illegal rest hillegal)
  case illegalCut => exact step_of_decode_error hfault hhalt (decode_fetchWindow_cut hcut hin hmem)
  case cut =>
    rw [← bytesRead_of_legal hlegal] at hcut
    exact step_of_decode_error hfault hhalt (decode_fetchWindow_cut hcut hin hmem)

end Sys2Proof.Machine
end


section
/-! PROOFS. Instructions that complete (41_data_movement, 42_arithmetic, 43_logic_shift): the frames of the handlers' updates, each handler
when its source has a value, and the statements O15 and O17 to O25. -/

namespace Sys2Proof.Machine

/-! ### Registers after the updates that write none -/

@[simp] theorem reg16_advance (s : State) (k : Nat) (q : RegIdx) : (s.advance k).reg16 q = s.reg16 q := rfl
@[simp] theorem reg16_clearError (s : State) (q : RegIdx) : s.clearError.reg16 q = s.reg16 q := rfl
@[simp] theorem reg8_advance (s : State) (k : Nat) (q : RegIdx) : (s.advance k).reg8 q = s.reg8 q := rfl
@[simp] theorem reg8_clearError (s : State) (q : RegIdx) : s.clearError.reg8 q = s.reg8 q := rfl
@[simp] theorem reg8_setFlags (s : State) (c z : Bool) (q : RegIdx) : (s.setFlags c z).reg8 q = s.reg8 q := rfl
@[simp] theorem reg16_setFlags (s : State) (c z : Bool) (q : RegIdx) : (s.setFlags c z).reg16 q = s.reg16 q := by
  simp [State.reg16, State.sp]

/-! ### Frames of two updates in a row -/

/-- An update that writes no register leaves the frame of the one before it. -/
theorem Only16.then {l : List RegIdx} {s t u : State} (h : Only16 l s t) (hreg : ∀ q, u.reg16 q = t.reg16 q) (husp : u.usp = t.usp)
    (hssp : u.ssp = t.ssp) : Only16 l s u := by
  obtain ⟨hregs, hsp⟩ := h
  refine ⟨fun q hq hne => (hreg q).trans (hregs q hq hne), ?_⟩
  unfold OtherSpSame at hsp ⊢
  rwa [husp, hssp]

theorem Only8.then {l : List RegIdx} {s t u : State} (h : Only8 l s t) (hreg : ∀ q, u.reg8 q = t.reg8 q) (husp : u.usp = t.usp)
    (hssp : u.ssp = t.ssp) : Only8 l s u := by
  obtain ⟨hregs, husp', hssp'⟩ := h
  exact ⟨fun q hq hne => (hreg q).trans (hregs q hq hne), husp.trans husp', hssp.trans hssp'⟩

/-- A state with the same registers has changed none. -/
theorem only16_of_same {s t : State} (hreg : ∀ q, t.reg16 q = s.reg16 q) (husp : t.usp = s.usp) (hssp : t.ssp = s.ssp) : Only16 [] s t :=
  ⟨fun q _ _ => hreg q, otherSp_of husp hssp⟩

theorem sameMemory_of_eq {s t : State} (h : t.mem = s.mem) : SameMemory s t := fun n => by rw [h]

/-- Writing the flags touches the bits 2 and 3 of SR alone. -/
theorem onlySrBits_setFlags {s t : State} {c z : Bool} (h : t.sr = (s.setFlags c z).sr) : OnlySrBits [2, 3] s t :=
  fun n hn => by rw [h, sr_getLsbD_setFlags s c z n hn]

/-! ### ALU instructions -/

/-- An instruction that writes a 16-bit register and the flags and moves IP past itself completes. -/
theorem aluCompletes16_of_exec {i : Instr} {s : State} {d : RegIdx} {result : Word} {c z : Bool} (hd : isReg16 d = true)
    (h : exec i s = .next (((s.setReg16 d result).setFlags c z).advance i.size).clearError) : AluCompletes16 i s d result c z := by
  refine ⟨_, h, ?_, carry_setFlags _ c z, zero_setFlags _ c z, ?_, (only16_setReg16 s d result hd).then (fun q => ?_) ?_ ?_,
    fun n hn => ?_, sameMemory_of_eq ?_, ?_, rfl⟩
  · simpa using reg16_setReg16_same s d result hd
  · simp
  · simp
  · simp
  · simp
  · exact (sr_getLsbD_setFlags _ c z n hn).trans (by simp)
  · simp
  · simp [SameDevices]

/-- The same for a half-register. -/
theorem aluCompletes8_of_exec {i : Instr} {s : State} {d : RegIdx} {result : Byte} {c z : Bool} (hd : isReg8 d = true)
    (h : exec i s = .next (((s.setReg8 d result).setFlags c z).advance i.size).clearError) : AluCompletes8 i s d result c z := by
  refine ⟨_, h, ?_, carry_setFlags _ c z, zero_setFlags _ c z, ?_, (only8_setReg8 s d result hd).then (fun q => ?_) ?_ ?_,
    fun n hn => ?_, sameMemory_of_eq ?_, ?_, rfl⟩
  · simpa using reg8_setReg8_same s d result hd
  · simp
  · simp
  · simp
  · simp
  · exact (sr_getLsbD_setFlags _ c z n hn).trans (by simp)
  · simp
  · simp [SameDevices]

theorem aluReg16_of_value {op : Word → Word → AluResult 16} {k : Nat} {d : RegIdx} {src : Src16} {s : State} {y : Word} (hd : isReg16 d = true)
    (hsrc : src.value s = .ok y) : aluReg16 op k d src s =
      .ok (((s.setReg16 d (op (s.reg16 d) y).result).setFlags (op (s.reg16 d) y).carry (op (s.reg16 d) y).zero).advance k) := by
  simp only [aluReg16, requireReg16_ok hd, hsrc]
  rfl

theorem aluReg8_of_value {op : Byte → Byte → AluResult 8} {k : Nat} {d : RegIdx} {src : Src8} {s : State} {y : Byte} (hd : isReg8 d = true)
    (hsrc : src.value s = .ok y) : aluReg8 op k d src s =
      .ok (((s.setReg8 d (op (s.reg8 d) y).result).setFlags (op (s.reg8 d) y).carry (op (s.reg8 d) y).zero).advance k) := by
  simp only [aluReg8, requireReg8_ok hd, hsrc]
  rfl

/-- A two-operand instruction whose source has a value completes with what its ALU operation answers (40_alu R173). -/
theorem binForm_completes {op : BinOp} {s : State} {d : RegIdx} {src : Src16} {y result : Word} {c z : Bool} (hd : isReg16 d = true)
    (hsrc : src.value s = .ok y) (hop : op.alu (s.reg16 d) y = ⟨result, c, z⟩) : AluCompletes16 (binForm op d src) s d result c z := by
  apply aluCompletes16_of_exec hd
  rw [exec_binForm, aluReg16_of_value hd hsrc, hop, conclude_ok]

theorem binbForm_completes {op : BinOp} {s : State} {d : RegIdx} {src : Src8} {y result : Byte} {c z : Bool} (hd : isReg8 d = true)
    (hsrc : src.value s = .ok y) (hop : op.alu (s.reg8 d) y = ⟨result, c, z⟩) : AluCompletes8 (binbForm op d src) s d result c z := by
  apply aluCompletes8_of_exec hd
  rw [exec_binbForm, aluReg8_of_value hd hsrc, hop, conclude_ok]

/-- A register operation completes with what its ALU operation answers. -/
theorem unary16_of_reg {op : Word → AluResult 16} {r : RegIdx} {s : State} (hr : isReg16 r = true) : unary16 op r s =
    .ok (((s.setReg16 r (op (s.reg16 r)).result).setFlags (op (s.reg16 r)).carry (op (s.reg16 r)).zero).advance 2) := by
  simp only [unary16, requireReg16_ok hr]
  rfl

theorem unary8_of_reg {op : Byte → AluResult 8} {r : RegIdx} {s : State} (hr : isReg8 r = true) : unary8 op r s =
    .ok (((s.setReg8 r (op (s.reg8 r)).result).setFlags (op (s.reg8 r)).carry (op (s.reg8 r)).zero).advance 2) := by
  simp only [unary8, requireReg8_ok hr]
  rfl

/-- The ALU operation of a one-operand mnemonic. -/
def UnOp.alu {n : Nat} : UnOp → BitVec n → AluResult n
  | .inc, x => aluAdd x 1
  | .dec, x => aluSub x 1
  | .not, x => aluNot x

theorem exec_unForm (op : UnOp) (r : RegIdx) (s : State) : exec (unForm op r) s = conclude s (unary16 op.alu r s) := by cases op <;> rfl

theorem exec_unbForm (op : UnOp) (r : RegIdx) (s : State) : exec (unbForm op r) s = conclude s (unary8 op.alu r s) := by cases op <;> rfl

theorem size_unForm (op : UnOp) (r : RegIdx) : (unForm op r).size = 2 := by cases op <;> rfl

theorem size_unbForm (op : UnOp) (r : RegIdx) : (unbForm op r).size = 2 := by cases op <;> rfl

theorem unForm_completes {op : UnOp} {s : State} {r : RegIdx} {result : Word} {c z : Bool} (hr : isReg16 r = true)
    (hop : op.alu (s.reg16 r) = ⟨result, c, z⟩) : AluCompletes16 (unForm op r) s r result c z := by
  apply aluCompletes16_of_exec hr
  rw [exec_unForm, unary16_of_reg hr, hop, conclude_ok, size_unForm]

theorem unbForm_completes {op : UnOp} {s : State} {r : RegIdx} {result : Byte} {c z : Bool} (hr : isReg8 r = true)
    (hop : op.alu (s.reg8 r) = ⟨result, c, z⟩) : AluCompletes8 (unbForm op r) s r result c z := by
  apply aluCompletes8_of_exec hr
  rw [exec_unbForm, unary8_of_reg hr, hop, conclude_ok, size_unbForm]

/-- Adding 1 carries, and leaves 0, at the top of the range alone (40_alu R162). -/
theorem aluAdd_one {n : Nat} (x : BitVec n) (hn : 0 < n) :
    aluAdd x 1 = ⟨x + 1, decide (x = BitVec.allOnes n), decide (x = BitVec.allOnes n)⟩ := by
  have hx := x.isLt
  have hone : (1 : BitVec n).toNat = 1 := by simp [Nat.mod_eq_of_lt, Nat.one_lt_two_pow (Nat.pos_iff_ne_zero.mp hn)]
  have htop : x = BitVec.allOnes n ↔ x.toNat + 1 = 2 ^ n := by
    rw [← BitVec.toNat_inj, BitVec.toNat_allOnes]
    omega
  rw [aluAdd_eq, hone]
  congr 1
  · rw [decide_eq_decide, htop]
    omega
  · rw [decide_eq_decide, htop]
    constructor
    · intro h
      by_contra hne
      rw [Nat.mod_eq_of_lt (by omega)] at h
      omega
    · intro h
      rw [h, Nat.mod_self]

/-- Subtracting 1 borrows at 0 alone (40_alu R163). -/
theorem aluSub_one {n : Nat} (x : BitVec n) (hn : 0 < n) : aluSub x 1 = ⟨x - 1, decide (x = 0), decide (x = 1)⟩ := by
  have hone : (1 : BitVec n).toNat = 1 := by simp [Nat.mod_eq_of_lt, Nat.one_lt_two_pow (Nat.pos_iff_ne_zero.mp hn)]
  rw [aluSub_eq, hone]
  congr 1
  rw [decide_eq_decide, ← BitVec.toNat_inj]
  simp

theorem multiply16_of_value {k : Nat} {src : Src16} {s : State} {y : Word} (hsrc : src.value s = .ok y) : multiply16 k src s =
    .ok (((s.setReg16 0 (aluMul s.a y).result).setFlags (aluMul s.a y).carry (aluMul s.a y).zero).advance k) := by
  simp only [multiply16, hsrc]
  rfl

theorem multiply8_of_value {k : Nat} {src : Src8} {s : State} {y : Byte} (hsrc : src.value s = .ok y) : multiply8 k src s =
    .ok (((s.setReg8 10 (aluMul (s.reg8 10) y).result).setFlags (aluMul (s.reg8 10) y).carry (aluMul (s.reg8 10) y).zero).advance k) := by
  simp only [multiply8, hsrc]
  rfl

theorem mulForm_completes {s : State} {src : Src16} {y result : Word} {c z : Bool} (hsrc : src.value s = .ok y)
    (hop : aluMul s.a y = ⟨result, c, z⟩) : AluCompletes16 (mulForm src) s 0 result c z := by
  apply aluCompletes16_of_exec rfl
  rw [exec_mulForm, multiply16_of_value hsrc, hop, conclude_ok]

theorem mulbForm_completes {s : State} {src : Src8} {y result : Byte} {c z : Bool} (hsrc : src.value s = .ok y)
    (hop : aluMul (s.reg8 10) y = ⟨result, c, z⟩) : AluCompletes8 (mulbForm src) s 10 result c z := by
  apply aluCompletes8_of_exec rfl
  rw [exec_mulbForm, multiply8_of_value hsrc, hop, conclude_ok]

theorem divide16_of_value {k : Nat} {src : Src16} {s : State} {y : Word} {q : AluResult 16} (hsrc : src.value s = .ok y)
    (hq : aluDiv s.a y = some q) : divide16 k src s = .ok (((s.setReg16 0 q.result).setFlags q.carry q.zero).advance k) := by
  simp only [divide16, hsrc, bind, Except.bind, hq]
  rfl

theorem divide8_of_value {k : Nat} {src : Src8} {s : State} {y : Byte} {q : AluResult 8} (hsrc : src.value s = .ok y)
    (hq : aluDiv (s.reg8 10) y = some q) : divide8 k src s = .ok (((s.setReg8 10 q.result).setFlags q.carry q.zero).advance k) := by
  have hq' : aluDiv (loByte s.a) y = some q := hq
  simp only [divide8, hsrc, bind, Except.bind, hq']
  rfl

/-- A comparison writes the flags of the subtraction and moves IP (40_alu R173). -/
theorem compare16_of_value {k : Nat} {d : RegIdx} {src : Src16} {s : State} {y : Word} (hd : isReg16 d = true) (hsrc : src.value s = .ok y) :
    compare16 k d src s = .ok ((s.setFlags (decide ((s.reg16 d).toNat < y.toNat)) (decide (s.reg16 d = y))).advance k) := by
  simp only [compare16, requireReg16_ok hd, hsrc, bind, Except.bind, aluSub_eq]
  rfl

theorem compare8_of_value {k : Nat} {d : RegIdx} {src : Src8} {s : State} {y : Byte} (hd : isReg8 d = true) (hsrc : src.value s = .ok y) :
    compare8 k d src s = .ok ((s.setFlags (decide ((s.reg8 d).toNat < y.toNat)) (decide (s.reg8 d = y))).advance k) := by
  simp only [compare8, requireReg8_ok hd, hsrc, bind, Except.bind, aluSub_eq]
  rfl

/-- What flags and IP alone changed by leaves. -/
theorem flags_frame (s : State) (c z : Bool) (k : Nat) (t : State) (ht : t = ((s.setFlags c z).advance k).clearError) :
    t.carry = c ∧ t.zero = z ∧ t.ip = s.ip + BitVec.ofNat 16 k ∧ Only16 [] s t ∧ OnlySrBits [2, 3] s t ∧ SameMemory s t ∧
      SameDevices s t ∧ t.stepError = none := by
  subst ht
  exact ⟨carry_setFlags s c z, zero_setFlags s c z, rfl, only16_of_same (fun q => by simp) rfl rfl, onlySrBits_setFlags rfl,
    sameMemory_of_eq rfl, SameDevices.refl s, rfl⟩

/-! ### Moves to registers -/

theorem moveToReg16_of_value {k : Nat} {d : RegIdx} {src : Src16} {s : State} {v : Word} (hd : isReg16 d = true) (hsrc : src.value s = .ok v) :
    moveToReg16 k d src s = .ok ((s.setReg16 d v).advance k) := by
  simp only [moveToReg16, requireReg16_ok hd, hsrc]
  rfl

theorem moveToReg8_of_value {k : Nat} {d : RegIdx} {src : Src8} {s : State} {v : Byte} (hd : isReg8 d = true) (hsrc : src.value s = .ok v) :
    moveToReg8 k d src s = .ok ((s.setReg8 d v).advance k) := by
  simp only [moveToReg8, requireReg8_ok hd, hsrc]
  rfl

/-! ### The obligations -/

/-- Settles O15: the handler writes the register and moves IP, and the frame is that of the register write. -/
theorem movToRegisterCompletes : Obligations.MovToRegisterCompletes := by
  refine ⟨fun s d src v hd hsrc => ?_, fun s d src v hd hsrc => ?_⟩
  · refine ⟨_, by rw [exec_movForm, moveToReg16_of_value hd hsrc, conclude_ok], ?_, by simp,
      (only16_setReg16 s d v hd).then (fun q => by simp) (by simp) (by simp), by simp, sameMemory_of_eq (by simp), by simp [SameDevices], rfl⟩
    simpa using reg16_setReg16_same s d v hd
  · refine ⟨_, by rw [exec_movbForm, moveToReg8_of_value hd hsrc, conclude_ok], ?_, by simp,
      (only8_setReg8 s d v hd).then (fun q => by simp) (by simp) (by simp), by simp, sameMemory_of_eq (by simp), by simp [SameDevices], rfl⟩
    simpa using reg8_setReg8_same s d v hd

/-- Settles O17, by `aluAdd_eq`. -/
theorem addCompletes : Obligations.AddCompletes :=
  ⟨fun _ _ _ _ hd hsrc => binForm_completes hd hsrc (aluAdd_eq _ _), fun _ _ _ _ hd hsrc => binbForm_completes hd hsrc (aluAdd_eq _ _)⟩

/-- Settles O18, by `aluSub_eq`. -/
theorem subCompletes : Obligations.SubCompletes :=
  ⟨fun _ _ _ _ hd hsrc => binForm_completes hd hsrc (aluSub_eq _ _), fun _ _ _ _ hd hsrc => binbForm_completes hd hsrc (aluSub_eq _ _)⟩

/-- Settles O19: a comparison writes the flags of `aluSub_eq` and no register. -/
theorem compareCompletes : Obligations.CompareCompletes := by
  refine ⟨fun s d src y hd hsrc => ⟨_, ?_, flags_frame s _ _ _ _ rfl⟩, fun s d src y hd hsrc => ⟨_, ?_, flags_frame s _ _ _ _ rfl⟩⟩
  · rw [exec_cmpForm, compare16_of_value hd hsrc, conclude_ok]
  · rw [exec_cmpbForm, compare8_of_value hd hsrc, conclude_ok]

/-- Settles O20, by `aluAdd_one`, `aluSub_one` and `aluNot_eq`. -/
theorem unaryCompletes : Obligations.UnaryCompletes :=
  ⟨fun _ _ hr => ⟨unForm_completes hr (aluAdd_one _ (by decide)), unForm_completes hr (aluSub_one _ (by decide)),
      unForm_completes hr (aluNot_eq _)⟩,
    fun _ _ hr => ⟨unbForm_completes hr (aluAdd_one _ (by decide)), unbForm_completes hr (aluSub_one _ (by decide)),
      unbForm_completes hr (aluNot_eq _)⟩⟩

/-- Settles O21, by `aluMul_eq`; A is register 0 and AL half-register 10. -/
theorem mulCompletes : Obligations.MulCompletes :=
  ⟨fun _ _ _ hsrc => mulForm_completes hsrc (aluMul_eq _ _), fun _ _ _ hsrc => mulbForm_completes hsrc (aluMul_eq _ _)⟩

/-- Settles O22, by `aluDiv_eq`. -/
theorem divCompletes : Obligations.DivCompletes := by
  refine ⟨fun s src y hsrc hy => aluCompletes16_of_exec rfl ?_, fun s src y hsrc hy => aluCompletes8_of_exec rfl ?_⟩
  · have hpos : y.toNat ≠ 0 := fun h => hy (BitVec.eq_of_toNat_eq h)
    rw [exec_divForm, divide16_of_value hsrc (aluDiv_eq _ _ hpos), conclude_ok]
  · have hpos : y.toNat ≠ 0 := fun h => hy (BitVec.eq_of_toNat_eq h)
    rw [exec_divbForm, divide8_of_value hsrc (aluDiv_eq _ _ hpos), conclude_ok]

theorem aluDiv_by_zero {n : Nat} (x : BitVec n) : aluDiv x 0 = none := by
  simp [aluDiv]

/-- Settles O23: the division answers nothing, and the handler raises before it writes (`aluDiv_by_zero`). -/
theorem divideByZeroRaises : Obligations.DivideByZeroRaises := by
  refine ⟨fun s src hsrc => ?_, fun s src hsrc => ?_⟩
  · rw [exec_divForm]
    simp only [divide16, hsrc, bind, Except.bind, aluDiv_by_zero, divided, conclude_error]
  · rw [exec_divbForm]
    simp only [divide8, hsrc, bind, Except.bind, aluDiv_by_zero, divided, conclude_error]

/-- Settles O24, by `aluAnd_eq`, `aluOr_eq` and `aluXor_eq`. -/
theorem bitwiseCompletes : Obligations.BitwiseCompletes :=
  ⟨fun _ _ _ _ hd hsrc => ⟨binForm_completes hd hsrc (aluAnd_eq _ _), binForm_completes hd hsrc (aluOr_eq _ _),
      binForm_completes hd hsrc (aluXor_eq _ _)⟩,
    fun _ _ _ _ hd hsrc => ⟨binbForm_completes hd hsrc (aluAnd_eq _ _), binbForm_completes hd hsrc (aluOr_eq _ _),
      binbForm_completes hd hsrc (aluXor_eq _ _)⟩⟩

/-- Settles O25, by `aluShl_eq` and `aluShr_eq`, whose counts are not reduced. -/
theorem shiftCompletes : Obligations.ShiftCompletes :=
  ⟨fun _ _ _ _ hd hsrc => ⟨binForm_completes hd hsrc (aluShl_eq _ _), binForm_completes hd hsrc (aluShr_eq _ _)⟩,
    fun _ _ _ _ hd hsrc => ⟨binbForm_completes hd hsrc (aluShl_eq _ _), binbForm_completes hd hsrc (aluShr_eq _ _)⟩⟩

end Sys2Proof.Machine
end


section
/-! PROOFS. Instructions that write memory or move the stack pointer (20_memory R87, R93 to R96; 41_data_movement, 44_control_transfer,
45_stack): what a word written leaves, what a push and a pop leave, and the statements O13, O16 and O26 to O29. -/

namespace Sys2Proof.Machine

/-! ### What a write to memory leaves -/

/-- The word at `x` and `x + 1` becomes `v`, high byte first (20_memory R88). -/
def State.pokeWord (s : State) (x : Int) (v : Word) : State := (s.poke x (hiByte v)).poke (x + 1) (loByte v)

theorem nonneg_of_writable {s : State} {x : Int} {k : Nat} (hk : 0 < k) (h : Writable s x k) : 0 ≤ x := by
  obtain ⟨hin, -⟩ := h 0 hk
  simpa using ((inBounds_iff s _).mp hin).1

theorem memWrite16_eq_pokeWord {s : State} {x : Int} (v : Word) (h : Writable s x 2) : memWrite16 s x v = .ok (s.pokeWord x v) :=
  memWrite16_of_writable v h

theorem byteAt_pokeWord_hi (s : State) {x : Int} (v : Word) (hx : 0 ≤ x) : (s.pokeWord x v).byteAt x = hiByte v := by
  rw [State.pokeWord, byteAt_poke _ _ _ _ (by omega) hx, if_neg (by omega), byteAt_poke _ _ _ _ hx hx, if_pos rfl]

theorem byteAt_pokeWord_lo (s : State) {x : Int} (v : Word) (hx : 0 ≤ x) : (s.pokeWord x v).byteAt (x + 1) = loByte v := by
  rw [State.pokeWord, byteAt_poke _ _ _ _ (by omega) (by omega), if_pos rfl]

theorem wordAt_pokeWord (s : State) {x : Int} (v : Word) (hx : 0 ≤ x) : (s.pokeWord x v).wordAt x = v := by
  rw [State.wordAt, byteAt_pokeWord_hi s v hx, byteAt_pokeWord_lo s v hx, joinBytes_hi_lo]

theorem sameMemoryOutside_poke (s : State) {x : Int} (v : Byte) (hx : 0 ≤ x) : SameMemoryOutside x 1 s (s.poke x v) :=
  fun n hn => Memory.read_write_other _ _ _ _ (by omega)

theorem sameMemoryOutside_pokeWord (s : State) {x : Int} (v : Word) (hx : 0 ≤ x) : SameMemoryOutside x 2 s (s.pokeWord x v) := by
  intro n hn
  calc (s.pokeWord x v).mem.read n = (s.poke x (hiByte v)).mem.read n := Memory.read_write_other _ _ _ _ (by omega)
    _ = s.mem.read n := Memory.read_write_other _ _ _ _ (by omega)

/-- Settles O13: the write is `pokeWord`, and both cells are in bounds for the reads after it. -/
theorem wordReadAfterWordWrite : Obligations.WordReadAfterWordWrite := by
  intro s t x v h
  obtain ⟨hw, rfl⟩ := memWrite16_ok h
  have hx := nonneg_of_writable (by decide) hw
  have hread : Readable (s.pokeWord x v) x 2 := fun j hj => (hw j hj).1
  have hlow : Readable (s.pokeWord x v) x 1 := fun j hj => hread j (by omega)
  have hhigh : Readable (s.pokeWord x v) (x + 1) 1 := fun j hj => by
    obtain rfl : j = 0 := by omega
    simpa using hread 1 (by decide)
  refine ⟨?_, ?_, ?_, sameMemoryOutside_pokeWord s v hx, rfl, (MemoryKept.poke2 _ _ hw).wf⟩
  · exact (memRead16_of_readable hread).trans (by rw [wordAt_pokeWord s v hx])
  · exact (memRead8_of_readable hlow).trans (by rw [byteAt_pokeWord_hi s v hx]; rfl)
  · exact (memRead8_of_readable hhigh).trans (by rw [byteAt_pokeWord_lo s v hx]; rfl)

/-! ### Stores -/

theorem conclude_of_ok {s t : State} {r : Except Exc State} (h : r = .ok t) : conclude s r = .next t.clearError := by rw [h, conclude_ok]

theorem moveToMem16_of_writable {k : Nat} {o : MemOperand} {src : Src16} {s : State} {x : Int} {v : Word} (haddr : o.address s = .ok x)
    (hsrc : src.value s = .ok v) (hw : Writable s x 2) : moveToMem16 k o src s = .ok ((s.pokeWord x v).advance k) := by
  simp only [moveToMem16, MemOperand.store16, hsrc, haddr, bind, Except.bind, memWrite16_eq_pokeWord v hw]
  rfl

theorem moveToMem8_of_writable {k : Nat} {o : MemOperand} {src : Src8} {s : State} {x : Int} {v : Byte} (haddr : o.address s = .ok x)
    (hsrc : src.value s = .ok v) (hw : Writable s x 1) : moveToMem8 k o src s = .ok ((s.poke x v).advance k) := by
  simp only [moveToMem8, MemOperand.store8, hsrc, haddr, bind, Except.bind, memWrite8_of_writable v hw]
  rfl

theorem Src16.value_reg_ok {s : State} {r : RegIdx} (hr : isReg16 r = true) : (Src16.reg r).value s = .ok (s.reg16 r) := by
  rw [Src16.value_reg, if_pos hr]

theorem Src8.value_reg_ok {s : State} {r : RegIdx} (hr : isReg8 r = true) : (Src8.reg r).value s = .ok (s.reg8 r) := by
  rw [Src8.value_reg, if_pos hr]

/-- A store of a word stores the value of its source (41_data_movement R204, R205, R207, R208). -/
theorem exec_store16 {s : State} {o : MemOperand} {i : Instr} {v : Word}
    (hi : (∃ r, isReg16 r = true ∧ i = movStoreReg o r ∧ v = s.reg16 r) ∨ i = movStoreImm o v) :
    ∃ src : Src16, src.value s = .ok v ∧ exec i s = conclude s (moveToMem16 i.size o src s) := by
  rcases hi with ⟨r, hr, rfl, rfl⟩ | rfl
  · exact ⟨.reg r, Src16.value_reg_ok hr, exec_movStoreReg o r s⟩
  · exact ⟨.imm v, rfl, exec_movStoreImm o v s⟩

/-- The same for a byte. -/
theorem exec_store8 {s : State} {o : MemOperand} {i : Instr} {v : Byte}
    (hi : (∃ r, isReg8 r = true ∧ i = movbStoreReg o r ∧ v = s.reg8 r) ∨ i = movbStoreImm o v) :
    ∃ src : Src8, src.value s = .ok v ∧ exec i s = conclude s (moveToMem8 i.size o src s) := by
  rcases hi with ⟨r, hr, rfl, rfl⟩ | rfl
  · exact ⟨.reg r, Src8.value_reg_ok hr, exec_movbStoreReg o r s⟩
  · exact ⟨.imm v, rfl, exec_movbStoreImm o v s⟩

/-- A store leaves what its write to memory does, with IP moved. -/
theorem store_frame {slot : Int} {k : Nat} {s w : State} (size : Nat) (hw : w = { s with mem := w.mem }) (hmem : SameMemoryOutside slot k s w) :
    SameMemoryOutside slot k s (w.advance size).clearError ∧ (w.advance size).clearError.ip = s.ip + BitVec.ofNat 16 size ∧
      Only16 [] s (w.advance size).clearError ∧ (w.advance size).clearError.sr = s.sr ∧ SameDevices s (w.advance size).clearError ∧
      (w.advance size).clearError.stepError = none := by
  refine ⟨hmem, ?_, ?_, ?_, ?_, rfl⟩ <;> rw [hw]
  · rfl
  · exact only16_of_same (fun _ => rfl) rfl rfl
  · rfl
  · exact SameDevices.refl s

@[simp] theorem byteAt_advance (s : State) (k : Nat) (x : Int) : (s.advance k).byteAt x = s.byteAt x := rfl
@[simp] theorem byteAt_clearError (s : State) (x : Int) : s.clearError.byteAt x = s.byteAt x := rfl

/-- Settles O16: every form stores the value of its source, and the memory left is that of `pokeWord` and `poke`. -/
theorem movToMemoryCompletes : Obligations.MovToMemoryCompletes := by
  refine fun s o x haddr => ⟨fun hw i v hi => ?word, fun hw i v hi => ?byte⟩
  case word =>
    have hx := nonneg_of_writable (by decide) hw
    obtain ⟨src, hsrc, hexec⟩ := exec_store16 hi
    refine ⟨_, hexec.trans (conclude_of_ok (moveToMem16_of_writable haddr hsrc hw)), ?_, ?_,
      store_frame i.size rfl (sameMemoryOutside_pokeWord s v hx)⟩
    · rw [byteAt_clearError, byteAt_advance, byteAt_pokeWord_hi s v hx, hiByte]
    · rw [byteAt_clearError, byteAt_advance, byteAt_pokeWord_lo s v hx, loByte]
  case byte =>
    have hx := nonneg_of_writable (by decide) hw
    obtain ⟨src, hsrc, hexec⟩ := exec_store8 hi
    refine ⟨_, hexec.trans (conclude_of_ok (moveToMem8_of_writable haddr hsrc hw)), ?_,
      store_frame i.size rfl (sameMemoryOutside_poke s v hx)⟩
    rw [byteAt_clearError, byteAt_advance, byteAt_poke _ _ _ _ hx hx, if_pos rfl]

/-! ### Jumps -/

/-- Adding a signed offset to a register, modulo 65536 (44_control_transfer R340). -/
theorem wordOfInt_add_offset (w : Word) (offset : Byte) : wordOfInt ((w.toNat : Int) + offset.toInt) = w + offset.signExtend 16 := by
  rw [wordOfInt, BitVec.ofInt_add, BitVec.signExtend, BitVec.ofInt_natCast, BitVec.ofNat_toNat, BitVec.setWidth_eq]

theorem Target.resolve_indexed {s : State} {m : RegAddr} (hbase : isReg16 m.base = true) :
    (Target.indexed m).resolve s = .ok (s.reg16 m.base + m.offset.signExtend 16) := by
  rw [← wordOfInt_add_offset]
  simp only [Target.resolve, effectiveAddress_eq, hbase, if_true]
  rfl

/-- A jump whose target resolves to `v` (44_control_transfer R341). -/
theorem exec_jumpForm_of_target {s : State} {cond : Cond} {target : Target} {v : Word} (h : target.resolve s = .ok v) :
    exec (jumpForm cond target) s = .next { s with ip := if cond.holds s then v else s.ip + 3, stepError := none } := by
  rw [exec_jumpForm]
  simp only [jumpIf, h, bind, Except.bind]
  cases cond.holds s <;> rfl

/-- Settles O26: both forms resolve their target, whether or not the jump is taken. -/
theorem jumpCompletes : Obligations.JumpCompletes :=
  fun _ _ => ⟨fun _ => exec_jumpForm_of_target rfl, fun _ hbase => exec_jumpForm_of_target (Target.resolve_indexed hbase)⟩

/-! ### The stack -/

/-- SP is register 4, so a write of SP has the frame of a register write. -/
theorem only16_setSp (s : State) (v : Word) : Only16 [4] s (s.setSp v) := only16_setReg16 s 4 v rfl

theorem sameDevices_setSp (s : State) (v : Word) : SameDevices s (s.setSp v) := sameDevices_setReg16 s 4 v

@[simp] theorem reg8_setSp (s : State) (v : Word) (q : RegIdx) : (s.setSp v).reg8 q = s.reg8 q := by simp [State.reg8]

/-- A value has been pushed at `slot`, `k` bytes of it, and SP is `sp`: nothing else changed (20_memory R93, R94). -/
structure Pushed (slot : Int) (k : Nat) (sp : Word) (s u : State) : Prop where
  sp_eq : u.sp = sp
  memory : SameMemoryOutside slot k s u
  regs : Only16 [4] s u
  sr_eq : u.sr = s.sr
  ip_eq : u.ip = s.ip
  devices : SameDevices s u

/-- Writing memory, then SP, is a push. -/
theorem Pushed.of_write {slot : Int} {k : Nat} {s w : State} (sp : Word) (hw : w = { s with mem := w.mem }) (hmem : SameMemoryOutside slot k s w) :
    Pushed slot k sp s (w.setSp sp) := by
  have hregs : Only16 [4] w (w.setSp sp) := only16_setSp w sp
  rw [hw] at hregs hmem ⊢
  exact ⟨sp_setSp _ _, fun n hn => by rw [State.setSp_mem]; exact hmem n hn, hregs, by simp, by simp, sameDevices_setSp _ sp⟩

/-- What a word push whose slot is writable leaves. -/
theorem push16_leaves {s : State} (v : Word) (hw : Writable s ((s.sp.toNat : Int) - 1) 2) :
    ∃ u, push16 s v = .ok u ∧ u.wordAt ((s.sp.toNat : Int) - 1) = v ∧ Pushed ((s.sp.toNat : Int) - 1) 2 (s.sp - 2) s u := by
  have hx := nonneg_of_writable (by decide) hw
  have hpush : push16 s v = .ok ((s.pokeWord ((s.sp.toNat : Int) - 1) v).setSp (s.sp - 2)) := by
    have hnext : (s.sp.toNat : Int) - 1 + 1 = s.sp.toNat := by omega
    have hsp : wordOfInt ((s.sp.toNat : Int) - 2) = s.sp - 2 := wordOfInt_toNat_sub s.sp 2
    rw [push16_of_writable v hw, hsp, State.pokeWord, hnext]
  refine ⟨_, hpush, ?_, .of_write _ rfl (sameMemoryOutside_pokeWord s v hx)⟩
  calc _ = (s.pokeWord ((s.sp.toNat : Int) - 1) v).wordAt ((s.sp.toNat : Int) - 1) := by simp [State.wordAt, State.byteAt, State.pokeWord]
    _ = v := wordAt_pokeWord s v hx

/-- What a byte push whose slot is writable leaves. -/
theorem push8_leaves {s : State} (v : Byte) (hw : Writable s (s.sp.toNat : Int) 1) :
    ∃ u, push8 s v = .ok u ∧ u.byteAt (s.sp.toNat : Int) = v ∧ Pushed (s.sp.toNat : Int) 1 (s.sp - 1) s u := by
  have hx := nonneg_of_writable (by decide) hw
  have hpush := push8_of_writable v hw
  rw [show wordOfInt ((s.sp.toNat : Int) - 1) = s.sp - 1 from wordOfInt_toNat_sub s.sp 1] at hpush
  refine ⟨_, hpush, ?_, .of_write _ rfl (sameMemoryOutside_poke s v hx)⟩
  calc _ = (s.poke (s.sp.toNat : Int) v).byteAt (s.sp.toNat : Int) := by simp [State.byteAt]
    _ = v := by rw [byteAt_poke _ _ _ _ hx hx, if_pos rfl]

/-- What a word pop whose slot is readable answers. -/
theorem pop16_leaves {s : State} (h : Readable s ((s.sp.toNat : Int) + 1) 2) :
    pop16 s = .ok (s.wordAt ((s.sp.toNat : Int) + 1), s.setSp (s.sp + 2)) := by
  rw [pop16_of_readable h]
  exact congrArg (fun w => Except.ok (_, s.setSp w)) (wordOfInt_toNat_add s.sp 2)

/-- What a byte pop whose slot is readable answers. -/
theorem pop8_leaves {s : State} (h : Readable s ((s.sp.toNat : Int) + 1) 1) :
    pop8 s = .ok (s.byteAt ((s.sp.toNat : Int) + 1), s.setSp (s.sp + 1)) := by
  rw [pop8_of_readable h]
  exact congrArg (fun w => Except.ok (_, s.setSp w)) (wordOfInt_toNat_add s.sp 1)

/-- Settles O27: CALL is `push16_leaves`, then the target resolved before it; RET is `pop16_leaves`. -/
theorem callAndRetComplete : Obligations.CallAndRetComplete := by
  refine ⟨fun s target v htarget hw => ?call, fun s hr => ?ret⟩
  case call =>
    obtain ⟨u, hpush, hword, hpushed⟩ := push16_leaves (s.ip + 3) hw
    have hcall : callTo target s = .ok { u with ip := v } := by
      simp only [callTo, htarget, bind, Except.bind, hpush]
      rfl
    exact ⟨_, (exec_callForm target s).trans (conclude_of_ok hcall), rfl, hpushed.sp_eq, hword, hpushed.memory,
      hpushed.regs.then (fun _ => rfl) rfl rfl, hpushed.sr_eq, hpushed.devices, rfl⟩
  case ret =>
    have hexec : exec .ret s = conclude s (returnFromCall s) := rfl
    have hret : returnFromCall s = .ok { s.setSp (s.sp + 2) with ip := s.wordAt ((s.sp.toNat : Int) + 1) } := by
      simp only [returnFromCall, pop16_leaves hr, bind, Except.bind]
      rfl
    exact ⟨_, hexec.trans (conclude_of_ok hret), rfl, sp_setSp s _, (only16_setSp s _).then (fun _ => rfl) rfl rfl, State.setSp_sr s _,
      sameMemory_of_eq (State.setSp_mem s _), sameDevices_setSp s _, rfl⟩

/-- Settles O28: the source is read, then `push16_leaves` and `push8_leaves`. -/
theorem pushCompletes : Obligations.PushCompletes := by
  refine ⟨fun s src v hsrc hw => ?word, fun s src v hsrc hw => ?byte⟩
  case word =>
    obtain ⟨u, hpush, hword, hpushed⟩ := push16_leaves v hw
    have hrun : pushWord (pushForm src).size src s = .ok (u.advance (pushForm src).size) := by
      simp only [pushWord, hsrc, bind, Except.bind, hpush]
      rfl
    exact ⟨_, (exec_pushForm src s).trans (conclude_of_ok hrun), hword, hpushed.sp_eq, hpushed.memory,
      congrArg (· + BitVec.ofNat 16 (pushForm src).size) hpushed.ip_eq, hpushed.regs.then (fun _ => rfl) rfl rfl, hpushed.sr_eq,
      hpushed.devices, rfl⟩
  case byte =>
    obtain ⟨u, hpush, hbyte, hpushed⟩ := push8_leaves v hw
    have hrun : pushByte (pushbForm src).size src s = .ok (u.advance (pushbForm src).size) := by
      simp only [pushByte, hsrc, bind, Except.bind, hpush]
      rfl
    exact ⟨_, (exec_pushbForm src s).trans (conclude_of_ok hrun), hbyte, hpushed.sp_eq, hpushed.memory,
      congrArg (· + BitVec.ofNat 16 (pushbForm src).size) hpushed.ip_eq, hpushed.regs.then (fun _ => rfl) rfl rfl, hpushed.sr_eq,
      hpushed.devices, rfl⟩

/-- Two updates in the same mode change at most what both name. -/
theorem Only16.trans {l k : List RegIdx} {s t u : State} (h : Only16 l s t) (g : Only16 k t u) (hmode : t.supervisor = s.supervisor) :
    Only16 (k ++ l) s u := by
  obtain ⟨hregs, hsp⟩ := h
  obtain ⟨gregs, gsp⟩ := g
  refine ⟨fun q hq hne => ?_, ?_⟩
  · obtain ⟨hk, hl⟩ : q ∉ k ∧ q ∉ l := by simpa using hne
    exact (gregs q hq hk).trans (hregs q hq hl)
  · unfold OtherSpSame at hsp gsp ⊢
    rw [hmode] at gsp
    split at hsp
    · next hs => simpa [hs] using (by simpa [hs] using gsp : u.usp = t.usp).trans hsp
    · next hs => simpa [hs] using (by simpa [hs] using gsp : u.ssp = t.ssp).trans hsp

/-- Settles O29: SP rises (`pop16_leaves`, `pop8_leaves`), then the register is written, so a POP SP has the last word. -/
theorem popCompletes : Obligations.PopCompletes := by
  refine ⟨fun s r hr hread => ?word, fun s r hr hread => ?byte⟩
  case word =>
    have hexec : exec (.popR16 r) s = conclude s (popWord r s) := rfl
    have hrun : popWord r s = .ok (((s.setSp (s.sp + 2)).setReg16 r (s.wordAt ((s.sp.toNat : Int) + 1))).advance 2) := by
      simp only [popWord, requireReg16_ok hr, bind, Except.bind, pop16_leaves hread]
      rfl
    refine ⟨_, hexec.trans (conclude_of_ok hrun), ?_, fun h4 => ?_, by simp, ?_, by simp, sameMemory_of_eq (by simp), ?_, rfl⟩
    · exact reg16_setReg16_same _ r _ hr
    · calc _ = (s.setSp (s.sp + 2)).reg16 4 := reg16_setReg16_other _ r 4 _ hr rfl (Ne.symm h4)
        _ = s.sp + 2 := sp_setSp s _
    · exact ((only16_setSp s _).trans (only16_setReg16 _ r _ hr) (by simp)).then (fun _ => rfl) rfl rfl
    · exact (sameDevices_setSp s _).trans (sameDevices_setReg16 _ r _)
  case byte =>
    have hexec : exec (.popbR8 r) s = conclude s (popByte r s) := rfl
    have hrun : popByte r s = .ok (((s.setSp (s.sp + 1)).setReg8 r (s.byteAt ((s.sp.toNat : Int) + 1))).advance 2) := by
      simp only [popByte, requireReg8_ok hr, bind, Except.bind, pop8_leaves hread]
      rfl
    refine ⟨_, hexec.trans (conclude_of_ok hrun), ?_, ?_, by simp, fun q hq hne => ?_, ?_, by simp, sameMemory_of_eq (by simp), ?_, rfl⟩
    · exact reg8_setReg8_same _ r _ hr
    · calc _ = (s.setSp (s.sp + 1)).sp := by simp [State.sp]
        _ = s.sp + 1 := sp_setSp s _
    · exact (reg8_setReg8_other _ r q _ hr hq hne).trans (reg8_setSp s _ q)
    · obtain ⟨-, hsp⟩ := (only16_setSp s (s.sp + 1))
      unfold OtherSpSame at hsp ⊢
      simpa using hsp
    · exact (sameDevices_setSp s _).trans (sameDevices_setReg8 _ r _)

end Sys2Proof.Machine
end


section
/-! PROOFS. The system instructions (46_system) and the I/O space (20_memory R100 to R102): what each I/O address holds and takes, the trap
return from a readable stack, and the statements O30, O31 and O33 to O35. -/

namespace Sys2Proof.Machine

/-! ### HLT, CLI and STI -/

/-- Settles O30: each writes one bit of SR, which its mask names; CLI and STI pass their check in supervisor mode. -/
theorem hltCliStiComplete : Obligations.HltCliStiComplete := by
  refine ⟨fun _ => rfl, fun s hs => ?_⟩
  have hexec (v : Bool) : conclude s (writeIrqMask v s) = .next ((s.setIrqEnabled v).advance 1).clearError := by
    simp only [writeIrqMask, requireSupervisor_ok hs]
    rfl
  exact ⟨hexec false, hexec true⟩

/-! ### The trap return -/

theorem setSp_of_supervisor {s : State} {v : Word} (h : s.supervisor = true) : s.setSp v = { s with ssp := v } := if_pos h

theorem setSp_of_user {s : State} {v : Word} (h : s.supervisor = false) : s.setSp v = { s with usp := v } := if_neg (by simp [h])

/-- A word pop in supervisor mode from the two bytes above SSP, where they are inside memory and SSP does not wrap (20_memory R95). -/
theorem pop16_at {s : State} {n : Nat} (hs : s.supervisor = true) (hssp : s.ssp.toNat = n) (hin : n + 2 < s.cfg.memSize) :
    pop16 s = .ok (s.wordAt ((n : Int) + 1), { s with ssp := s.ssp + 2 }) := by
  have hsp : s.sp.toNat = n := by rw [sp_of_supervisor hs, hssp]
  have hread : Readable s ((s.sp.toNat : Int) + 1) 2 := fun j hj => (inBounds_iff s _).mpr (by omega)
  rw [pop16_leaves hread, hsp, sp_of_supervisor hs, State.setSp, if_pos hs]

/-- A word pop in supervisor mode whose slot is not inside memory raises (20_memory R97). -/
theorem pop16_beyond {s : State} {n : Nat} (hs : s.supervisor = true) (hssp : s.ssp.toNat = n) (hout : s.cfg.memSize ≤ n + 2) :
    pop16 s = .error .stackAccess := by
  have hsp : s.sp.toNat = n := by rw [sp_of_supervisor hs, hssp]
  refine pop16_fail fun hread => ?_
  have hin := (inBounds_iff s _).mp (hread 1 (by decide))
  rw [hsp] at hin
  omega

/-- SSP two bytes up, where that does not wrap. -/
theorem toNat_add_two {w : Word} {n : Nat} (hw : w.toNat = n) (hn : n + 2 < 65536) : (w + 2).toNat = n + 2 := by
  rw [BitVec.toNat_add, hw]
  exact Nat.mod_eq_of_lt hn

/-- The trap return from six readable bytes above SSP: three pops, then SR whole, then the SP word where the restored mode puts it (46_system
R384). -/
theorem returnFromTrap_at {s : State} {n : Nat} (hs : s.supervisor = true) (hssp : s.ssp.toNat = n) (hsize : s.cfg.memSize ≤ 65536)
    (hin : n + 6 < s.cfg.memSize) :
    returnFromTrap s = .ok (State.setSp { s with ssp := s.ssp + 6, sr := s.wordAt (n + 5), ip := s.wordAt (n + 1) } (s.wordAt (n + 3))) := by
  have h₁ : (s.ssp + 2).toNat = n + 2 := toNat_add_two hssp (by omega)
  have h₂ : (s.ssp + 2 + 2).toNat = n + 4 := toNat_add_two h₁ (by omega)
  have hsum : s.ssp + 2 + 2 + 2 = s.ssp + 6 := by rw [BitVec.add_assoc, BitVec.add_assoc]; rfl
  have hpop₁ := pop16_at hs hssp (by omega)
  have hpop₂ := pop16_at (s := { s with ssp := s.ssp + 2 }) hs h₁ (show n + 2 + 2 < s.cfg.memSize by omega)
  have hpop₃ := pop16_at (s := { s with ssp := s.ssp + 2 + 2 }) hs h₂ (show n + 4 + 2 < s.cfg.memSize by omega)
  simp only [hsum] at hpop₃
  simp only [returnFromTrap, bind, Except.bind, hpop₁, hpop₂, hpop₃, pure, Except.pure]
  rfl

/-- The trap return raises when one of its three pops does. -/
theorem returnFromTrap_beyond {s : State} {n : Nat} (hs : s.supervisor = true) (hssp : s.ssp.toNat = n) (hsize : s.cfg.memSize ≤ 65536)
    (hout : s.cfg.memSize ≤ n + 6) : returnFromTrap s = .error .stackAccess := by
  by_cases hin₁ : n + 2 < s.cfg.memSize
  · have h₁ : (s.ssp + 2).toNat = n + 2 := toNat_add_two hssp (by omega)
    by_cases hin₂ : n + 4 < s.cfg.memSize
    · have h₂ : (s.ssp + 2 + 2).toNat = n + 4 := toNat_add_two h₁ (by omega)
      simp only [returnFromTrap, bind, Except.bind, pop16_at hs hssp hin₁, pop16_at (s := { s with ssp := s.ssp + 2 }) hs h₁ hin₂,
        pop16_beyond (s := { s with ssp := s.ssp + 2 + 2 }) hs h₂ hout]
    · simp only [returnFromTrap, bind, Except.bind, pop16_at hs hssp hin₁,
        pop16_beyond (s := { s with ssp := s.ssp + 2 }) hs h₁ (show s.cfg.memSize ≤ n + 2 + 2 by omega)]
  · simp only [returnFromTrap, bind, Except.bind, pop16_beyond hs hssp (by omega)]

/-- IRET in supervisor mode is the trap return. -/
theorem exec_iret_supervisor {s : State} (hs : s.supervisor = true) : exec .iret s = conclude s (returnFromTrap s) := by
  have hexec : exec .iret s = conclude s (trapReturn s) := rfl
  rw [hexec, trapReturn, requireSupervisor_ok hs]
  rfl

/-- Settles O31, by `returnFromTrap_at`: the SP word goes where bit 15 of the restored SR says. -/
theorem iretRestores : Obligations.IretRestores := by
  intro s hs hsize hin
  rw [exec_iret_supervisor hs, returnFromTrap_at hs rfl hsize hin, conclude_ok]
  cases hmode : (s.wordAt ((s.ssp.toNat : Int) + 5)).getLsbD 15 with
  | true =>
    rw [setSp_of_supervisor (by exact hmode)]
    simp only [hmode]
    rfl
  | false =>
    rw [setSp_of_user (by exact hmode)]
    simp only [hmode]
    rfl

/-! ### The I/O space -/

/-- Under valid parameters the timer's registers and each `EXT_IO` register have addresses of their own (60_exceptions R497). -/
theorem Config.io_distinct {c : Config} (h : c.wf = true) :
    (c.ioTmrPreload ≠ ioIrqMask ∧ c.ioTmrPreload ≠ ioIrqStatus ∧ c.ioTmrPreload ≠ ioIrqEoi) ∧
    (c.ioTmrCounter ≠ ioIrqMask ∧ c.ioTmrCounter ≠ ioIrqStatus ∧ c.ioTmrCounter ≠ ioIrqEoi ∧ c.ioTmrCounter ≠ c.ioTmrPreload) ∧
    ∀ r ∈ c.extIo, r.addr ≠ ioIrqMask ∧ r.addr ≠ ioIrqStatus ∧ r.addr ≠ ioIrqEoi ∧
      r.addr ≠ c.ioTmrPreload ∧ r.addr ≠ c.ioTmrCounter := by
  have hnodup := Config.ioAddresses_nodup h
  simp only [Config.ioAddresses, List.cons_append, List.nil_append, List.nodup_cons, List.mem_cons,
    List.mem_map, not_or, not_exists, not_and] at hnodup
  obtain ⟨⟨-, -, hp0, hc0, hr0⟩, ⟨-, hp1, hc1, hr1⟩, ⟨hp2, hc2, hr2⟩, ⟨hpc, hrp⟩, hrc, -⟩ := hnodup
  exact ⟨⟨Ne.symm hp0, Ne.symm hp1, Ne.symm hp2⟩, ⟨Ne.symm hc0, Ne.symm hc1, Ne.symm hc2, Ne.symm hpc⟩,
    fun r hr => ⟨hr0 r hr, hr1 r hr, hr2 r hr, hrp r hr, hrc r hr⟩⟩

/-- Each declared `EXT_IO` register is the one at its address. -/
theorem Config.extIoAt_of_mem {c : Config} (h : c.wf = true) {r : ExtIoReg} (hr : r ∈ c.extIo) : Config.extIoAt c r.addr = some r := by
  obtain ⟨q, hq⟩ : ∃ q, Config.extIoAt c r.addr = some q := Option.isSome_iff_exists.mp (List.find?_isSome.mpr ⟨r, hr, by simp⟩)
  have haddr : q.addr = r.addr := by simpa using List.find?_some hq
  rw [hq, List.inj_on_of_nodup_map (Config.extIo_addr_nodup h) (List.mem_of_find?_eq_some hq) hr haddr]

theorem ioRead_extIo {s : State} (h : s.cfg.wf = true) {r : ExtIoReg} (hr : r ∈ s.cfg.extIo) :
    ioRead s r.addr = some ((extLookup s.extIo r.addr).getD r.resetValue) := by
  obtain ⟨h0, h1, h2, hp, hc⟩ := (Config.io_distinct h).2.2 r hr
  simp [ioRead, h0, h1, h2, hp, hc, Config.extIoAt_of_mem h hr]

theorem ioWrite_extIo {s : State} (h : s.cfg.wf = true) {r : ExtIoReg} (hr : r ∈ s.cfg.extIo) (v : Word) :
    ioWrite s r.addr v = if r.perm = .ro then none else some { s with extIo := extStore s.extIo r.addr v } := by
  obtain ⟨h0, h1, h2, hp, hc⟩ := (Config.io_distinct h).2.2 r hr
  simp [ioWrite, h0, h1, h2, hp, hc, Config.extIoAt_of_mem h hr]

theorem ioWrite_tmrPreload {s : State} (h : s.cfg.wf = true) (v : Word) : ioWrite s s.cfg.ioTmrPreload v = some (preloadTimer s v) := by
  obtain ⟨⟨h0, h1, h2⟩, -, -⟩ := Config.io_distinct h
  simp [ioWrite, h0, h1, h2]

theorem ioWrite_tmrCounter {s : State} (h : s.cfg.wf = true) (v : Word) : ioWrite s s.cfg.ioTmrCounter v = none := by
  obtain ⟨-, ⟨h0, h1, h2, hp⟩, -⟩ := Config.io_distinct h
  simp [ioWrite, h0, h1, h2, hp]

/-- Where no register exists there is none to read or write (20_memory R100, R101). -/
theorem io_of_not_mem {s : State} {io : Word} (h : io ∉ s.cfg.ioAddresses) : ioRead s io = none ∧ ∀ v, ioWrite s io v = none := by
  simp only [Config.ioAddresses, List.cons_append, List.nil_append, List.mem_cons, List.mem_map, not_or, not_exists, not_and] at h
  obtain ⟨h0, h1, h2, hp, hc, hr⟩ := h
  have hext : Config.extIoAt s.cfg io = none := List.find?_eq_none.mpr (fun r hmem => by simpa using hr r hmem)
  exact ⟨by simp [ioRead, h0, h1, h2, hp, hc, hext], fun v => by simp [ioWrite, h0, h1, h2, hp, hc, hext]⟩

/-- IN in supervisor mode is what reading the I/O address answers (46_system R386). -/
theorem exec_inForm_of_value {s : State} {src : Src16} {io : Word} (hs : s.supervisor = true) (hsrc : src.value s = .ok io) :
    exec (inForm src) s = match ioRead s io with
      | some v => .next { s with a := v, ip := s.ip + BitVec.ofNat 16 (inForm src).size, stepError := none }
      | none => .next (takeException (.memoryAccess (io.toNat : Int)) s) := by
  rw [exec_inForm]
  simp only [input, requireSupervisor_ok hs, hsrc, bind, Except.bind]
  cases ioRead s io <;> rfl

/-- OUT in supervisor mode is what writing A to the I/O address leaves (46_system R390). -/
theorem exec_outForm_of_value {s : State} {src : Src16} {io : Word} (hs : s.supervisor = true) (hsrc : src.value s = .ok io) :
    exec (outForm src) s = match ioWrite s io s.a with
      | some t => .next (t.advance (outForm src).size).clearError
      | none => .next (takeException (.memoryAccess (io.toNat : Int)) s) := by
  rw [exec_outForm]
  simp only [output, requireSupervisor_ok hs, hsrc, bind, Except.bind]
  cases ioWrite s io s.a <;> rfl

/-- Settles O33, by `exec_inForm_of_value`. -/
theorem inReadsTheDevice : Obligations.InReadsTheDevice := by
  intro s src io v hs hsrc hread
  rw [exec_inForm_of_value hs hsrc, hread]

/-- A listed address has a value. -/
theorem extLookup_isSome {l : List (Word × Word)} {x : Word} (h : x ∈ l.map Prod.fst) : ∃ v, extLookup l x = some v := by
  induction l with
  | nil => cases h
  | cons e l ih =>
    obtain ⟨k, v⟩ := e
    by_cases hk : k = x
    · exact ⟨v, by simp [extLookup, hk]⟩
    · obtain ⟨w, hw⟩ := ih ((List.mem_cons.mp h).resolve_left (Ne.symm hk))
      exact ⟨w, by simp [extLookup, hk, hw]⟩

/-- Settles O34: `exec_outForm_of_value` with the write at each address; the `EXT_IO` values are those of `extLookup_extStore`. -/
theorem outWritesTheDevice : Obligations.OutWritesTheDevice := by
  intro s src io hwf hs hsrc
  have hexec := exec_outForm_of_value hs hsrc
  refine ⟨?mask, ?eoi, ?preload, ?ext⟩
  case mask =>
    rintro rfl
    exact hexec
  case eoi =>
    rintro rfl
    exact hexec
  case preload =>
    rintro rfl
    rw [hexec, ioWrite_tmrPreload hwf]
    rfl
  case ext =>
    rintro r hr rfl hperm
    refine ⟨extStore s.extIo r.addr s.a, ?_, extStore_keys _ _ _, fun hlisted => ?_, fun y hy => ?_⟩
    · rw [hexec, ioWrite_extIo hwf hr, if_neg (by simp [hperm])]
      rfl
    · obtain ⟨v, hv⟩ := extLookup_isSome hlisted
      rw [extLookup_extStore, if_pos rfl, hv, Option.map_some]
    · rw [extLookup_extStore, if_neg hy]

/-- Settles O35: reads by `ioRead`'s cases, which valid parameters keep apart, and failures by `io_of_not_mem` and the read-only registers. -/
theorem ioSpace : Obligations.IoSpace := by
  intro s hwf
  obtain ⟨⟨hp0, hp1, hp2⟩, ⟨hc0, hc1, hc2, hcp⟩, -⟩ := Config.io_distinct hwf
  refine ⟨rfl, rfl, rfl, ?preload, ?counter, ?ext, fun src io hs hsrc => ⟨fun hnone => ⟨?inRaises, ?outRaises⟩, fun hro => ?readOnly⟩⟩
  case preload => simp [ioRead, hp0, hp1, hp2]
  case counter => simp [ioRead, hc0, hc1, hc2, hcp]
  case ext =>
    intro r hr v hv
    rw [ioRead_extIo hwf hr, hv, Option.getD_some]
  case inRaises => rw [exec_inForm_of_value hs hsrc, (io_of_not_mem hnone).1]
  case outRaises => rw [exec_outForm_of_value hs hsrc, (io_of_not_mem hnone).2]
  case readOnly =>
    have hnone : ioWrite s io s.a = none := by
      rcases hro with rfl | rfl | ⟨r, hr, rfl, hperm⟩
      · rfl
      · exact ioWrite_tmrCounter hwf _
      · rw [ioWrite_extIo hwf hr, if_pos hperm]
    rw [exec_outForm_of_value hs hsrc, hnone]

end Sys2Proof.Machine
end


section
/-! PROOFS. What raises, and that it raises from the state before the instruction (60_exceptions R472, R473): the operands each handler
checks, then sources, stores and stack accesses that fail, and the statements O36 to O40. -/

namespace Sys2Proof.Machine

/-! ### The operands of a handler -/

/-- A memory operand as `Instr` has it. -/
def MemOperand.operand : MemOperand → Operand
  | .direct a => .addr a
  | .indexed m => .regAddr m

/-- A source operand of two bytes as `Instr` has it. -/
def Src16.operand : Src16 → Operand
  | .reg r => .r16 r
  | .mem o => o.operand
  | .imm v => .word v

/-- A source operand of one byte as `Instr` has it. -/
def Src8.operand : Src8 → Operand
  | .reg r => .r8 r
  | .mem o => o.operand
  | .imm v => .byte v

/-- A jump target as `Instr` has it. -/
def Target.operand : Target → Operand
  | .absolute v => .word v
  | .indexed m => .regAddr m

/-- The operands that each handler takes, in the order of the encoding. -/
inductive OperandsOf : (State → Except Exc State) → List Operand → Prop where
  | mov16 k d src : OperandsOf (moveToReg16 k d src) [.r16 d, src.operand]
  | mov8 k d src : OperandsOf (moveToReg8 k d src) [.r8 d, src.operand]
  | store16Reg k o r : OperandsOf (moveToMem16 k o (.reg r)) [o.operand, .r16 r]
  | store16Imm k o v : OperandsOf (moveToMem16 k o (.imm v)) [o.operand, .word v]
  | store8Reg k o r : OperandsOf (moveToMem8 k o (.reg r)) [o.operand, .r8 r]
  | store8Imm k o v : OperandsOf (moveToMem8 k o (.imm v)) [o.operand, .byte v]
  | alu16 op k d src : OperandsOf (aluReg16 op k d src) [.r16 d, src.operand]
  | alu8 op k d src : OperandsOf (aluReg8 op k d src) [.r8 d, src.operand]
  | cmp16 k d src : OperandsOf (compare16 k d src) [.r16 d, src.operand]
  | cmp8 k d src : OperandsOf (compare8 k d src) [.r8 d, src.operand]
  | un16 op r : OperandsOf (unary16 op r) [.r16 r]
  | un8 op r : OperandsOf (unary8 op r) [.r8 r]
  | mul16 k src : OperandsOf (multiply16 k src) [src.operand]
  | mul8 k src : OperandsOf (multiply8 k src) [src.operand]
  | div16 k src : OperandsOf (divide16 k src) [src.operand]
  | div8 k src : OperandsOf (divide8 k src) [src.operand]
  | jump (taken : State → Bool) t : OperandsOf (fun s => jumpIf (taken s) t s) [t.operand]
  | call t : OperandsOf (callTo t) [t.operand]
  | push16 k src : OperandsOf (pushWord k src) [src.operand]
  | push8 k src : OperandsOf (pushByte k src) [src.operand]
  | pop16 r : OperandsOf (popWord r) [.r16 r]
  | pop8 r : OperandsOf (popByte r) [.r8 r]
  | inp k src : OperandsOf (input k src) [src.operand]
  | out k src : OperandsOf (output k src) [src.operand]

/-- Every instruction with operands concludes a handler that takes them. -/
theorem exec_operands (i : Instr) :
    i.operands = [] ∨ ∃ f, (∀ s, exec i s = conclude s (f s)) ∧ ∃ ops, OperandsOf f ops ∧ i.operands = ops := by
  cases i
  case hlt | ret | cli | sti | iret | svc => exact .inl rfl
  all_goals
    exact .inr ⟨_, fun s => by dsimp only [exec]; exact rfl, _, by with_reducible constructor, by rfl⟩

theorem MemOperand.address_illegal {s : State} {o : MemOperand} (h : o.operand.wf = false) : o.address s = .error .illegalInstruction := by
  cases o with
  | direct a => cases h
  | indexed m => exact (effectiveAddress_eq s m).trans (if_neg (Bool.eq_false_iff.mp h))

theorem Src16.value_illegal {s : State} {src : Src16} (h : src.operand.wf = false) : src.value s = .error .illegalInstruction := by
  cases src with
  | reg r => exact (Src16.value_reg s r).trans (if_neg (Bool.eq_false_iff.mp h))
  | mem o =>
    simp only [Src16.value, MemOperand.load16, MemOperand.address_illegal h]
    rfl
  | imm v => cases h

theorem Src8.value_illegal {s : State} {src : Src8} (h : src.operand.wf = false) : src.value s = .error .illegalInstruction := by
  cases src with
  | reg r => exact (Src8.value_reg s r).trans (if_neg (Bool.eq_false_iff.mp h))
  | mem o =>
    simp only [Src8.value, MemOperand.load8, MemOperand.address_illegal h]
    rfl
  | imm v => cases h

theorem Target.resolve_illegal {s : State} {t : Target} (h : t.operand.wf = false) : t.resolve s = .error .illegalInstruction := by
  cases t with
  | absolute v => cases h
  | indexed m =>
    have hbase : effectiveAddress s m = .error .illegalInstruction := (effectiveAddress_eq s m).trans (if_neg (Bool.eq_false_iff.mp h))
    simp only [Target.resolve, hbase]
    rfl

/-- A sequence whose first part raises raises the same. -/
theorem bind_raises {α β : Type} {x : Except Exc α} {e : Exc} (g : α → Except Exc β) (h : x = .error e) : (x >>= g) = .error e := by
  rw [h]
  rfl

/-- A sequence whose first part answers goes on with what it answers. -/
theorem bind_answers {α β : Type} {x : Except Exc α} {v : α} (g : α → Except Exc β) (h : x = .ok v) : (x >>= g) = g v := by
  rw [h]
  rfl

/-- A class check that either passes or raises, before what raises once it has passed. -/
theorem check_raises {β : Type} {p : Bool} {x : Except Exc β} (h : p = true → x = .error .illegalInstruction) :
    ((if p then Except.ok () else .error .illegalInstruction : Except Exc Unit) >>= fun _ => x) = .error .illegalInstruction := by
  cases p with
  | true => exact h rfl
  | false => rfl

theorem wf_singleton {o : Operand} (h : [o].all Operand.wf = false) : o.wf = false := by simpa using h

/-- Of two operands that are not both legal the second is illegal when the first is legal. -/
theorem wf_second {o p : Operand} (h : [o, p].all Operand.wf = false) (ho : o.wf = true) : p.wf = false := by simpa [ho] using h

/-- A destination register, then a source. -/
theorem destination16_raises {s : State} {d : RegIdx} {src : Src16} {β : Type} (g : Word → Except Exc β)
    (h : [.r16 d, src.operand].all Operand.wf = false) : (requireReg16 d >>= fun _ => src.value s >>= g) = .error .illegalInstruction :=
  check_raises fun hd => bind_raises g (Src16.value_illegal (wf_second h hd))

theorem destination8_raises {s : State} {d : RegIdx} {src : Src8} {β : Type} (g : Byte → Except Exc β)
    (h : [.r8 d, src.operand].all Operand.wf = false) : (requireReg8 d >>= fun _ => src.value s >>= g) = .error .illegalInstruction :=
  check_raises fun hd => bind_raises g (Src8.value_illegal (wf_second h hd))

/-- A store reads its source, then the address of its destination; of a register and a memory operand either may be illegal. -/
theorem moveToMem16_raises {k : Nat} {o : MemOperand} {src : Src16} {s : State} {e : Exc}
    (h : src.value s = .error e ∨ ∃ v, src.value s = .ok v ∧ o.store16 s v = .error e) : moveToMem16 k o src s = .error e := by
  rcases h with h | ⟨v, hv, hstore⟩
  · exact bind_raises _ h
  · exact (bind_answers _ hv).trans (bind_raises _ hstore)

theorem moveToMem8_raises {k : Nat} {o : MemOperand} {src : Src8} {s : State} {e : Exc}
    (h : src.value s = .error e ∨ ∃ v, src.value s = .ok v ∧ o.store8 s v = .error e) : moveToMem8 k o src s = .error e := by
  rcases h with h | ⟨v, hv, hstore⟩
  · exact bind_raises _ h
  · exact (bind_answers _ hv).trans (bind_raises _ hstore)

theorem wf_memOperand_of_second {o : MemOperand} {p : Operand} (h : [o.operand, p].all Operand.wf = false) (hp : p.wf = true) :
    o.operand.wf = false := by simpa [hp] using h

/-- A handler with an illegal operand raises IllegalInstruction, whatever the state (30_encoding R126 to R128). -/
theorem OperandsOf.illegal {f : State → Except Exc State} {ops : List Operand} (hf : OperandsOf f ops) (h : ops.all Operand.wf = false)
    (s : State) : f s = .error .illegalInstruction := by
  cases hf with
  | mov16 | alu16 | cmp16 => exact destination16_raises _ h
  | mov8 | alu8 | cmp8 => exact destination8_raises _ h
  | store16Reg k o r =>
    refine moveToMem16_raises ?_
    cases hr : isReg16 r with
    | true => exact .inr ⟨_, Src16.value_reg_ok hr, bind_raises _ (MemOperand.address_illegal (wf_memOperand_of_second h hr))⟩
    | false => exact .inl (Src16.value_illegal (src := .reg r) hr)
  | store16Imm k o v =>
    exact moveToMem16_raises (.inr ⟨v, rfl, bind_raises _ (MemOperand.address_illegal (wf_memOperand_of_second h rfl))⟩)
  | store8Reg k o r =>
    refine moveToMem8_raises ?_
    cases hr : isReg8 r with
    | true => exact .inr ⟨_, Src8.value_reg_ok hr, bind_raises _ (MemOperand.address_illegal (wf_memOperand_of_second h hr))⟩
    | false => exact .inl (Src8.value_illegal (src := .reg r) hr)
  | store8Imm k o v =>
    exact moveToMem8_raises (.inr ⟨v, rfl, bind_raises _ (MemOperand.address_illegal (wf_memOperand_of_second h rfl))⟩)
  | un16 | pop16 => exact bind_raises _ (requireReg16_error (Bool.eq_false_iff.mp (wf_singleton h)))
  | un8 | pop8 => exact bind_raises _ (requireReg8_error (Bool.eq_false_iff.mp (wf_singleton h)))
  | mul16 | div16 | push16 => exact bind_raises _ (Src16.value_illegal (wf_singleton h))
  | mul8 | div8 | push8 => exact bind_raises _ (Src8.value_illegal (wf_singleton h))
  | jump | call => exact bind_raises _ (Target.resolve_illegal (wf_singleton h))
  | inp | out => exact check_raises fun _ => bind_raises _ (Src16.value_illegal (wf_singleton h))

/-- Settles O36: an instruction that is not well-formed has operands, and the handler that takes them raises (`OperandsOf.illegal`). -/
theorem illegalRegisterBytesRaise : Obligations.IllegalRegisterBytesRaise := by
  intro i s hwf
  rcases exec_operands i with hnone | ⟨f, hexec, ops, hf, hops⟩
  · simp [Instr.wf, hnone] at hwf
  · have hillegal : ops.all Operand.wf = false := hops ▸ hwf
    rw [hexec, hf.illegal hillegal, conclude_error]

/-! ### Privilege -/

/-- A privileged instruction checks the mode before anything else (46_system R380). -/
theorem exec_privileged {i : Instr} (h : privileged i = true) :
    ∃ f : State → Except Exc State, ∀ s, exec i s = conclude s (requireSupervisor s >>= fun _ => f s) := by
  cases i
  case cli | sti | iret | inR16 | inRa | inAd | inW | outR16 | outRa | outAd | outW => exact ⟨_, fun _ => rfl⟩
  all_goals cases h

/-- Settles O37: the mode is the first check of each (`exec_privileged`), and SVC's only one. -/
theorem privilegeChecks : Obligations.PrivilegeChecks := by
  refine ⟨fun i s hi huser => ?_, fun s hsup => ?_⟩
  · obtain ⟨f, hexec⟩ := exec_privileged hi
    have hmode : requireSupervisor s = .error .illegalInstruction := by simp [requireSupervisor, huser]
    rw [hexec, bind_raises _ hmode, conclude_error]
  · have hexec : exec .svc s = .next (supervisorCall s) := rfl
    rw [hexec, supervisorCall, if_pos hsup]

/-! ### Sources that fail -/

theorem conclude_of_raises {s : State} {r : Except Exc State} {e : Exc} (h : r = .error e) : conclude s r = .next (takeException e s) := by
  rw [h, conclude_error]

/-- After a check that passes, what raises raises. -/
theorem bind_passed_raises {β : Type} {c : Except Exc Unit} {x : Except Exc β} {e : Exc} (hc : c = .ok ()) (hx : x = .error e) :
    (c >>= fun _ => x) = .error e :=
  (bind_answers _ hc).trans hx

/-- Settles O38: each form reads its source after the checks that pass, and before it writes. -/
theorem failingSourceRaises : Obligations.FailingSourceRaises := by
  refine ⟨fun s src e h => ⟨fun d hd => ⟨?_, ?_, fun op => ?_⟩, ?_, ?_, ?_, fun hs => ⟨?_, ?_⟩⟩,
    fun s src e h => ⟨fun d hd => ⟨?_, ?_, fun op => ?_⟩, ?_, ?_, ?_⟩⟩
  · exact (exec_movForm d src s).trans (conclude_of_raises (bind_passed_raises (requireReg16_ok hd) (bind_raises _ h)))
  · exact (exec_cmpForm d src s).trans (conclude_of_raises (bind_passed_raises (requireReg16_ok hd) (bind_raises _ h)))
  · exact (exec_binForm op d src s).trans (conclude_of_raises (bind_passed_raises (requireReg16_ok hd) (bind_raises _ h)))
  · exact (exec_mulForm src s).trans (conclude_of_raises (bind_raises _ h))
  · exact (exec_divForm src s).trans (conclude_of_raises (bind_raises _ h))
  · exact (exec_pushForm src s).trans (conclude_of_raises (bind_raises _ h))
  · exact (exec_inForm src s).trans (conclude_of_raises (bind_passed_raises (requireSupervisor_ok hs) (bind_raises _ h)))
  · exact (exec_outForm src s).trans (conclude_of_raises (bind_passed_raises (requireSupervisor_ok hs) (bind_raises _ h)))
  · exact (exec_movbForm d src s).trans (conclude_of_raises (bind_passed_raises (requireReg8_ok hd) (bind_raises _ h)))
  · exact (exec_cmpbForm d src s).trans (conclude_of_raises (bind_passed_raises (requireReg8_ok hd) (bind_raises _ h)))
  · exact (exec_binbForm op d src s).trans (conclude_of_raises (bind_passed_raises (requireReg8_ok hd) (bind_raises _ h)))
  · exact (exec_mulbForm src s).trans (conclude_of_raises (bind_raises _ h))
  · exact (exec_divbForm src s).trans (conclude_of_raises (bind_raises _ h))
  · exact (exec_pushbForm src s).trans (conclude_of_raises (bind_raises _ h))

/-! ### Stores and stack accesses that fail -/

theorem MemOperand.store16_raises {s : State} {o : MemOperand} {x : Int} {v : Word} {e : MemError} (haddr : o.address s = .ok x)
    (h : memWrite16 s x v = .error e) : o.store16 s v = .error (.memoryAccess e.address) :=
  (bind_answers _ haddr).trans (congrArg dataAccess h)

theorem MemOperand.store8_raises {s : State} {o : MemOperand} {x : Int} {v : Byte} {e : MemError} (haddr : o.address s = .ok x)
    (h : memWrite8 s x v = .error e) : o.store8 s v = .error (.memoryAccess e.address) :=
  (bind_answers _ haddr).trans (congrArg dataAccess h)

/-- A store of a word raises what its write fails with. -/
theorem exec_store16_raises {s : State} {o : MemOperand} {i : Instr} {x y : Int} (haddr : o.address s = .ok x)
    (hi : (∃ r, isReg16 r = true ∧ i = movStoreReg o r) ∨ ∃ v, i = movStoreImm o v)
    (hfail : ∀ v, ∃ e, memWrite16 s x v = .error e ∧ e.address = y) : exec i s = .next (takeException (.memoryAccess y) s) := by
  obtain ⟨v, hform⟩ : ∃ v, (∃ r, isReg16 r = true ∧ i = movStoreReg o r ∧ v = s.reg16 r) ∨ i = movStoreImm o v := by
    rcases hi with ⟨r, hr, hi⟩ | ⟨v, hi⟩
    · exact ⟨_, .inl ⟨r, hr, hi, rfl⟩⟩
    · exact ⟨v, .inr hi⟩
  obtain ⟨src, hsrc, hexec⟩ := exec_store16 hform
  obtain ⟨e, he, rfl⟩ := hfail v
  exact hexec.trans (conclude_of_raises (moveToMem16_raises (.inr ⟨v, hsrc, MemOperand.store16_raises haddr he⟩)))

/-- A store of a byte raises what its write fails with. -/
theorem exec_store8_raises {s : State} {o : MemOperand} {i : Instr} {x : Int} (haddr : o.address s = .ok x)
    (hi : (∃ r, isReg8 r = true ∧ i = movbStoreReg o r) ∨ ∃ v, i = movbStoreImm o v)
    (hfail : ¬ Writable s x 1) : exec i s = .next (takeException (.memoryAccess x) s) := by
  obtain ⟨v, hform⟩ : ∃ v, (∃ r, isReg8 r = true ∧ i = movbStoreReg o r ∧ v = s.reg8 r) ∨ i = movbStoreImm o v := by
    rcases hi with ⟨r, hr, hi⟩ | ⟨v, hi⟩
    · exact ⟨_, .inl ⟨r, hr, hi, rfl⟩⟩
    · exact ⟨v, .inr hi⟩
  obtain ⟨src, hsrc, hexec⟩ := exec_store8 hform
  obtain ⟨e, he, heq⟩ := memWrite8_fail v hfail
  rw [← heq]
  exact hexec.trans (conclude_of_raises (moveToMem8_raises (.inr ⟨v, hsrc, MemOperand.store8_raises haddr he⟩)))

/-- Settles O39: a word write fails at its lower cell, or at the other when that one is writable. -/
theorem failingStoreRaises : Obligations.FailingStoreRaises := by
  refine fun s o x haddr => ⟨fun i hi => ⟨fun hlow => ?_, fun hlow hhigh => ?_⟩, fun i hi hlow => exec_store8_raises haddr hi hlow⟩
  · exact exec_store16_raises haddr hi fun v => memWrite16_fail0 v hlow
  · exact exec_store16_raises haddr hi fun v => memWrite16_fail1 v hlow hhigh

/-- Settles O40: the push or the pop raises, after the parts of the instruction that answer; IRET's by `returnFromTrap_beyond`. -/
theorem failingStackAccessRaises : Obligations.FailingStackAccessRaises := by
  refine fun s => ⟨fun hw => ⟨fun src v hsrc => ?push, fun target v htarget => ?call⟩, fun hw src v hsrc => ?pushb,
    fun hr => ⟨fun r hreg => ?pop, ?ret⟩, fun hs hsize hout => ?iret, fun hr r hreg => ?popb⟩
  case push => exact (exec_pushForm src s).trans (conclude_of_raises ((bind_answers _ hsrc).trans (bind_raises _ (push16_fail v hw))))
  case call =>
    exact (exec_callForm target s).trans (conclude_of_raises ((bind_answers _ htarget).trans (bind_raises _ (push16_fail _ hw))))
  case pushb => exact (exec_pushbForm src s).trans (conclude_of_raises ((bind_answers _ hsrc).trans (bind_raises _ (push8_fail v hw))))
  case pop => exact conclude_of_raises (bind_passed_raises (requireReg16_ok hreg) (bind_raises _ (pop16_fail hr)))
  case ret => exact conclude_of_raises (bind_raises _ (pop16_fail hr))
  case iret => rw [exec_iret_supervisor hs, returnFromTrap_beyond hs rfl hsize hout, conclude_error]
  case popb => exact conclude_of_raises (bind_passed_raises (requireReg8_ok hreg) (bind_raises _ (pop8_fail hr)))

end Sys2Proof.Machine
end


section
/-! PROOFS. Exceptions that are fatal, and what a trap entry reports (60_exceptions R486, R491, R492): the statements O41, O43 and O45. -/

namespace Sys2Proof.Machine

/-- FAULT is bit 1 of SR, set by its mask (10_state R42). -/
theorem goToFault_eq (e : Exc) (s : State) : goToFault e s = { s with sr := s.sr ||| 0x0002, stepError := some e } := rfl

/-- A step ends where an error is reported. -/
theorem finished_goToFault (e : Exc) (s : State) : finished (goToFault e s) = goToFault e s := if_neg (by simp [goToFault])

/-- Settles O41: in supervisor mode every exception goes to FAULT, and a report, which only FAULT leaves (`InstrEffect.of_error`), ends the
step. -/
theorem supervisorExceptionIsFatalAndPrecise : Obligations.SupervisorExceptionIsFatalAndPrecise := by
  refine ⟨fun e s hs => takeException_supervisor e s hs, fun s t i e _ hfault hhalt hfetch hexec he => ?executed,
    fun s e hs hfault hhalt hfetch => ?fetched⟩
  case executed =>
    rw [step_of_fetched hfault hhalt hfetch, hexec, (exec_next hexec).of_error he, finishStep_next, finished_goToFault, goToFault_eq]
  case fetched =>
    rw [step_of_fetch_error hfault hhalt hfetch, takeException_supervisor e s hs, finishStep_next, finished_goToFault, goToFault_eq]

/-- An exception from user mode whose frame does not fit. -/
theorem takeException_of_not_fits {s : State} (e : Exc) (huser : s.supervisor = false) (h : ¬ FrameFits s (exceptionWords e s).length) :
    takeException e s = goToFault e s := by
  simp [takeException, huser, enterTrap_of_not_fits (exceptionWords e s) excVector s h]

/-- An SVC from user mode whose frame does not fit. -/
theorem svcEntry_of_not_fits {s : State} (h : ¬ FrameFits s 3) : svcEntry s = goToFault .stackAccess s := by
  simp only [svcEntry, enterTrap_of_not_fits [s.sr, s.usp, s.ip + 1] syscallVector s h]

/-- An interrupt whose frame does not fit: not even HALT is cleared. -/
theorem interruptEntry_of_not_fits {s : State} (h : ¬ FrameFits s 3) : interruptEntry s = goToFault .stackAccess s := by
  have hnone := enterTrap_of_not_fits [(s.setHalted false).sr, (s.setHalted false).sp, (s.setHalted false).ip] irqVector (s.setHalted false) h
  simp only [interruptEntry, hnone]

theorem exec_svc_user {s : State} (huser : s.supervisor = false) : exec .svc s = .next (svcEntry s) :=
  congrArg Host.Outcome.next (supervisorCall_user huser)

/-- Settles O43: each entry that does not fit is the fatal state, whole. -/
theorem unbuildableFrameIsFatal : Obligations.UnbuildableFrameIsFatal := by
  refine fun s => ⟨fun e huser h => ?exception, fun huser h => ?svc, fun hfault hirq hen h => ?interrupt⟩
  case exception =>
    have hwords : ¬ FrameFits s (exceptionWords e s).length := by cases e <;> exact h
    exact takeException_of_not_fits e huser hwords
  case svc => rw [exec_svc_user huser, svcEntry_of_not_fits h, goToFault_eq]
  case interrupt => rw [recogniseInterrupt_of_taken hfault ((irqIn_iff s).mp hirq) hen, interruptEntry_of_not_fits h, goToFault_eq]

/-- FAULT is bit 1 of SR. -/
theorem faulted_of_onlySrBits {l : List Nat} {s t : State} (h : OnlySrBits l s t) (hl : 1 ∉ l) : t.faulted = s.faulted := h 1 hl

theorem Entered.faulted {words : List Word} {vector : Word} {l : List Nat} {s t : State} (h : Entered words vector l s t) (hl : 1 ∉ l) :
    t.faulted = s.faulted := by
  obtain ⟨-, -, -, -, -, -, -, -, -, hsr, -, -⟩ := h
  exact faulted_of_onlySrBits hsr hl

/-- An interrupt entry whose frame fits leaves the report of the step. -/
theorem interruptEntry_stepError {s : State} (h : FrameFits s 3) : (interruptEntry s).stepError = s.stepError := by
  obtain ⟨t, htrap, -, herr⟩ :=
    enterTrap_of_fits [(s.setHalted false).sr, (s.setHalted false).sp, (s.setHalted false).ip] irqVector (s.setHalted false) (by simp) h
  simp only [interruptEntry, htrap]
  exact herr

/-- An exception entry whose frame fits leaves no report. -/
theorem takeException_stepError_of_fits {s : State} (e : Exc) (huser : s.supervisor = false)
    (h : FrameFits s (exceptionWords e s).length) : (takeException e s).stepError = none := by
  have hlen := exceptionWords_length_le e s
  obtain ⟨t, htrap, -, -⟩ := enterTrap_of_fits (exceptionWords e s) excVector s (by omega) h
  simp [takeException, huser, htrap]

/-- An SVC entry whose frame fits leaves no report. -/
theorem svcEntry_stepError_of_fits {s : State} (h : FrameFits s 3) : (svcEntry s).stepError = none := by
  obtain ⟨t, htrap, -, -⟩ := enterTrap_of_fits [s.sr, s.usp, s.ip + 1] syscallVector s (by simp) h
  simp only [svcEntry, htrap]
  rfl

/-- Settles O45: what each entry leaves in the report, and FAULT by the bits of SR that it changes. -/
theorem entriesReportNoError : Obligations.EntriesReportNoError := by
  refine fun s => ⟨fun huser h => ⟨_, exec_svc_user huser, svcEntry_stepError_of_fits h⟩, fun e huser h => ?exception,
    fun hfault hirq hen h => ?interrupt⟩
  case exception =>
    have hwords : FrameFits s (exceptionWords e s).length := by cases e <;> exact h
    exact ⟨takeException_stepError_of_fits e huser hwords, (takeException_of_fits e huser hwords).faulted (by decide)⟩
  case interrupt =>
    obtain ⟨hentered, -, -⟩ := interruptEntry_of_fits h
    rw [recogniseInterrupt_of_taken hfault hirq hen]
    exact ⟨interruptEntry_stepError h, (hentered.faulted (by decide)).trans hfault⟩

end Sys2Proof.Machine
end


section
/-! PROOFS. User mode and the devices (60_exceptions R510): each operation of an instruction gives the same from two states that differ in
the devices alone, handler by handler, and the statement O55. -/

namespace Sys2Proof.Machine

/-! ### Two states that differ in the devices alone -/

/-- The contents of the interrupt controller, the timer and the `EXT_IO` registers. -/
structure DeviceContents where
  icMask : Word
  icStatus : Word
  icLevel : Word
  icEoi : Word
  tmrState : TimerState
  tmrPreload : Word
  tmrCounter : Word
  extIo : List (Word × Word)

/-- The state with these contents of the devices. -/
def State.withDevices (s : State) (d : DeviceContents) : State :=
  { s with
    icMask := d.icMask
    icStatus := d.icStatus
    icLevel := d.icLevel
    icEoi := d.icEoi
    tmrState := d.tmrState
    tmrPreload := d.tmrPreload
    tmrCounter := d.tmrCounter
    extIo := d.extIo }

theorem withDevices_setSp (s : State) (d : DeviceContents) (v : Word) : (s.withDevices d).setSp v = (s.setSp v).withDevices d := by
  cases hs : s.supervisor with
  | true => rw [setSp_of_supervisor hs, setSp_of_supervisor (by exact hs)]; rfl
  | false => rw [setSp_of_user hs, setSp_of_user (by exact hs)]; rfl

theorem withDevices_setReg16 (s : State) (d : DeviceContents) (i : RegIdx) (v : Word) :
    (s.withDevices d).setReg16 i v = (s.setReg16 i v).withDevices d := by
  unfold State.setReg16
  split
  · rfl
  · rfl
  · rfl
  · rfl
  · exact withDevices_setSp s d v

theorem withDevices_setReg8 (s : State) (d : DeviceContents) (i : RegIdx) (v : Byte) :
    (s.withDevices d).setReg8 i v = (s.setReg8 i v).withDevices d := by
  unfold State.setReg8
  split <;> rfl

/-! ### Sequences -/

/-- A sequence maps what its parts map. -/
theorem bind_map {ε α β : Type} {x x' : Except ε α} {ψ : α → α} {g g' : α → Except ε β} {φ : β → β} (hx : x' = x.map ψ)
    (hg : ∀ u, g' (ψ u) = (g u).map φ) : (x' >>= g') = (x >>= g).map φ := by
  rw [hx]
  cases x with
  | ok u => exact hg u
  | error e => rfl

/-- A sequence whose first part does not see the devices. -/
theorem bind_same {ε α β : Type} {x : Except ε α} {g g' : α → Except ε β} {φ : β → β} (hg : ∀ u, g' u = (g u).map φ) :
    (x >>= g') = (x >>= g).map φ := by
  cases x with
  | ok u => exact hg u
  | error e => rfl

theorem dataAccess_map {α : Type} (x : Except MemError α) (φ : α → α) : dataAccess (x.map φ) = (dataAccess x).map φ := by
  cases x <;> rfl

theorem stackAccess_map {α : Type} (x : Except MemError α) (φ : α → α) : stackAccess (x.map φ) = (stackAccess x).map φ := by
  cases x <;> rfl

/-! ### Memory and the stack -/

section
variable (s : State) (d : DeviceContents)

theorem memWrite8_withDevices (x : Int) (v : Byte) : memWrite8 (s.withDevices d) x v = (memWrite8 s x v).map (·.withDevices d) :=
  bind_same (x := checkWrite s x) fun _ => rfl

theorem memWrite16_withDevices (x : Int) (v : Word) : memWrite16 (s.withDevices d) x v = (memWrite16 s x v).map (·.withDevices d) :=
  bind_same (x := checkWrite s x) fun _ => bind_same (x := checkWrite s (x + 1)) fun _ => rfl

theorem store16_withDevices (o : MemOperand) (v : Word) : o.store16 (s.withDevices d) v = (o.store16 s v).map (·.withDevices d) :=
  bind_same (x := o.address s) fun x => (congrArg dataAccess (memWrite16_withDevices s d x v)).trans (dataAccess_map _ _)

theorem store8_withDevices (o : MemOperand) (v : Byte) : o.store8 (s.withDevices d) v = (o.store8 s v).map (·.withDevices d) :=
  bind_same (x := o.address s) fun x => (congrArg dataAccess (memWrite8_withDevices s d x v)).trans (dataAccess_map _ _)

theorem push16_withDevices (v : Word) : push16 (s.withDevices d) v = (push16 s v).map (·.withDevices d) :=
  bind_map ((congrArg stackAccess (memWrite16_withDevices s d _ v)).trans (stackAccess_map _ _))
    fun u => congrArg Except.ok (withDevices_setSp u d _)

theorem push8_withDevices (v : Byte) : push8 (s.withDevices d) v = (push8 s v).map (·.withDevices d) :=
  bind_map ((congrArg stackAccess (memWrite8_withDevices s d _ v)).trans (stackAccess_map _ _))
    fun u => congrArg Except.ok (withDevices_setSp u d _)

/-- What a pop answers, with the devices of its state replaced. -/
def poppedWithDevices {α : Type} (d : DeviceContents) (p : α × State) : α × State := (p.1, p.2.withDevices d)

theorem pop16_withDevices : pop16 (s.withDevices d) = (pop16 s).map (poppedWithDevices d) :=
  bind_same (x := stackAccess (memRead16 s ((s.sp.toNat : Int) + 1))) fun v =>
    congrArg (fun t => Except.ok (v, t)) (withDevices_setSp s d _)

theorem pop8_withDevices : pop8 (s.withDevices d) = (pop8 s).map (poppedWithDevices d) :=
  bind_same (x := stackAccess (memRead8 s ((s.sp.toNat : Int) + 1))) fun v =>
    congrArg (fun t => Except.ok (v, t)) (withDevices_setSp s d _)

/-! ### Traps -/

theorem pushAll_withDevices (ws : List Word) : pushAll ws (s.withDevices d) = (pushAll ws s).map (·.withDevices d) := by
  induction ws generalizing s with
  | nil => rfl
  | cons w ws ih => exact bind_map (push16_withDevices s d w) ih

theorem enterTrap_withDevices (ws : List Word) (vector : Word) :
    enterTrap ws vector (s.withDevices d) = (enterTrap ws vector s).map (·.withDevices d) := by
  have hpush : pushAll ws ((s.withDevices d).setSupervisor true) = (pushAll ws (s.setSupervisor true)).map (·.withDevices d) :=
    pushAll_withDevices (s.setSupervisor true) d ws
  unfold enterTrap
  rw [hpush]
  cases pushAll ws (s.setSupervisor true) <;> rfl

theorem takeException_withDevices (e : Exc) : takeException e (s.withDevices d) = (takeException e s).withDevices d := by
  cases hs : s.supervisor with
  | true => rw [takeException_supervisor e s hs, takeException_supervisor e _ (by exact hs)]; rfl
  | false =>
    have hs' : (s.withDevices d).supervisor = false := hs
    have hwords : exceptionWords e (s.withDevices d) = exceptionWords e s := by cases e <;> rfl
    simp only [takeException, hs, hs', hwords, enterTrap_withDevices, Bool.false_eq_true, if_false]
    cases enterTrap (exceptionWords e s) excVector s <;> rfl

theorem svcEntry_withDevices : svcEntry (s.withDevices d) = (svcEntry s).withDevices d := by
  have htrap : enterTrap [(s.withDevices d).sr, (s.withDevices d).usp, (s.withDevices d).ip + 1] syscallVector (s.withDevices d) =
      (enterTrap [s.sr, s.usp, s.ip + 1] syscallVector s).map (·.withDevices d) := enterTrap_withDevices s d _ _
  unfold svcEntry
  rw [htrap]
  cases enterTrap [s.sr, s.usp, s.ip + 1] syscallVector s <;> rfl

end

/-! ### Handlers -/

/-- From user mode the handler gives the same, whatever the devices hold. -/
def IgnoresDevices (f : State → Except Exc State) : Prop :=
  ∀ (s : State) (d : DeviceContents), s.supervisor = false → f (s.withDevices d) = (f s).map (·.withDevices d)

/-- A privileged handler raises from user mode before it reaches a device. -/
theorem ignoresDevices_privileged {g : State → Except Exc State} : IgnoresDevices fun s => requireSupervisor s >>= fun _ => g s := by
  intro s d huser
  have hraise : requireSupervisor s = .error .illegalInstruction := by simp [requireSupervisor, huser]
  have hraise' : requireSupervisor (s.withDevices d) = .error .illegalInstruction := hraise
  dsimp only
  rw [hraise, hraise']
  rfl

/-- No handler sees a device from user mode: what it reads is in the registers, SR and memory, which are the same, and what it writes
commutes with replacing the devices. -/
theorem Handler.ignoresDevices {b : Bool} {f : State → Except Exc State} (hf : Handler b f) : IgnoresDevices f := by
  cases hf with
  | irq | inp | out => exact ignoresDevices_privileged
  | mv16 k r src =>
    exact fun s d _ => bind_same (x := requireReg16 r) fun _ => bind_same (x := src.value s) fun v =>
      congrArg (fun t => Except.ok (State.advance t k)) (withDevices_setReg16 s d r v)
  | mv8 k r src =>
    exact fun s d _ => bind_same (x := requireReg8 r) fun _ => bind_same (x := src.value s) fun v =>
      congrArg (fun t => Except.ok (State.advance t k)) (withDevices_setReg8 s d r v)
  | st16 k o src => exact fun s d _ => bind_same (x := src.value s) fun v => bind_map (store16_withDevices s d o v) fun _ => rfl
  | st8 k o src => exact fun s d _ => bind_same (x := src.value s) fun v => bind_map (store8_withDevices s d o v) fun _ => rfl
  | alu16 op k r src =>
    exact fun s d _ => bind_same (x := requireReg16 r) fun _ => bind_same (x := src.value s) fun y =>
      congrArg (fun t => Except.ok ((State.setFlags t (op (s.reg16 r) y).carry (op (s.reg16 r) y).zero).advance k))
        (withDevices_setReg16 s d r (op (s.reg16 r) y).result)
  | alu8 op k r src =>
    exact fun s d _ => bind_same (x := requireReg8 r) fun _ => bind_same (x := src.value s) fun y =>
      congrArg (fun t => Except.ok ((State.setFlags t (op (s.reg8 r) y).carry (op (s.reg8 r) y).zero).advance k))
        (withDevices_setReg8 s d r (op (s.reg8 r) y).result)
  | cmp16 k r src => exact fun s d _ => bind_same (x := requireReg16 r) fun _ => bind_same (x := src.value s) fun _ => rfl
  | cmp8 k r src => exact fun s d _ => bind_same (x := requireReg8 r) fun _ => bind_same (x := src.value s) fun _ => rfl
  | un16 op r =>
    exact fun s d _ => bind_same (x := requireReg16 r) fun _ =>
      congrArg (fun t => Except.ok ((State.setFlags t (op (s.reg16 r)).carry (op (s.reg16 r)).zero).advance 2))
        (withDevices_setReg16 s d r (op (s.reg16 r)).result)
  | un8 op r =>
    exact fun s d _ => bind_same (x := requireReg8 r) fun _ =>
      congrArg (fun t => Except.ok ((State.setFlags t (op (s.reg8 r)).carry (op (s.reg8 r)).zero).advance 2))
        (withDevices_setReg8 s d r (op (s.reg8 r)).result)
  | mul16 k src | mul8 k src => exact fun s d _ => bind_same (x := src.value s) fun _ => rfl
  | div16 k src =>
    exact fun s d _ => bind_same (x := src.value s) fun y => bind_same (x := divided (aluDiv s.a y)) fun _ => rfl
  | div8 k src =>
    exact fun s d _ => bind_same (x := src.value s) fun y => bind_same (x := divided (aluDiv (loByte s.a) y)) fun _ => rfl
  | jump cond target =>
    refine fun s d _ => bind_same (x := target.resolve s) fun v => ?_
    have hcond : cond.holds (s.withDevices d) = cond.holds s := by cases cond <;> rfl
    rw [hcond]
    cases cond.holds s <;> rfl
  | call target =>
    exact fun s d _ => bind_same (x := target.resolve s) fun v => bind_map (push16_withDevices s d (s.ip + 3)) fun _ => rfl
  | ret => exact fun s d _ => bind_map (pop16_withDevices s d) fun _ => rfl
  | psh16 k src => exact fun s d _ => bind_same (x := src.value s) fun v => bind_map (push16_withDevices s d v) fun _ => rfl
  | psh8 k src => exact fun s d _ => bind_same (x := src.value s) fun v => bind_map (push8_withDevices s d v) fun _ => rfl
  | pop16 r =>
    exact fun s d _ => bind_same (x := requireReg16 r) fun _ => bind_map (pop16_withDevices s d) fun p =>
      congrArg (fun t => Except.ok (State.advance t 2)) (withDevices_setReg16 p.2 d r p.1)
  | pop8 r =>
    exact fun s d _ => bind_same (x := requireReg8 r) fun _ => bind_map (pop8_withDevices s d) fun p =>
      congrArg (fun t => Except.ok (State.advance t 2)) (withDevices_setReg8 p.2 d r p.1)
  | halt => exact fun _ _ _ => rfl

/-! ### The obligation -/

/-- What a handler answers from two states that differ in the devices alone. -/
theorem conclude_withDevices {f : State → Except Exc State} (hf : IgnoresDevices f) {s t : State} (d : DeviceContents)
    (huser : s.supervisor = false) (h : conclude s (f s) = .next t) :
    conclude (s.withDevices d) (f (s.withDevices d)) = .next (t.withDevices d) := by
  rw [hf s d huser]
  cases hr : f s with
  | ok u =>
    rw [hr] at h
    cases h
    rfl
  | error e =>
    rw [hr] at h
    cases h
    exact congrArg Host.Outcome.next (takeException_withDevices s d e)

/-- An instruction from user mode gives the same, whatever the devices hold. -/
theorem exec_withDevices {i : Instr} {s t : State} (d : DeviceContents) (huser : s.supervisor = false) (h : exec i s = .next t) :
    exec i (s.withDevices d) = .next (t.withDevices d) := by
  by_cases hiret : i = .iret
  · subst hiret
    exact conclude_withDevices (f := trapReturn) ignoresDevices_privileged d huser h
  · by_cases hsvc : i = .svc
    · subst hsvc
      rw [exec_svc_user huser] at h
      cases h
      exact (exec_svc_user (s := s.withDevices d) huser).trans (congrArg Host.Outcome.next (svcEntry_withDevices s d))
    · obtain ⟨f, hexec, hhandler⟩ := exec_handler i hiret hsvc
      rw [hexec] at h ⊢
      exact conclude_withDevices hhandler.ignoresDevices d huser h

/-- Nor does it write a device. -/
theorem InstrEffect.sameDevices_of_user {i : Instr} {s t : State} (h : InstrEffect i s t) (huser : s.supervisor = false) :
    SameDevices s t := by
  cases h with
  | completes _ h =>
    rcases h.dev with hsame | ⟨hsup, -⟩
    · exact hsame
    · simp [huser] at hsup
  | returns _ hsup _ => simp [huser] at hsup
  | raises e => exact (TrapEffect.exc e s).dev
  | traps _ => exact (TrapEffect.svc s).dev

/-- Settles O55: `InstrEffect.sameDevices_of_user` for the writes, `exec_withDevices` for the reads. -/
theorem userInstructionsDoNotTouchDevices : Obligations.UserInstructionsDoNotTouchDevices := by
  intro i s m st lv eoi pre cnt ts ext huser
  obtain ⟨t, hexec, heffect⟩ := exec_effect i s
  exact ⟨t, hexec, heffect.sameDevices_of_user huser, exec_withDevices ⟨m, st, lv, eoi, ts, pre, cnt, ext⟩ huser hexec⟩

end Sys2Proof.Machine
end
